-- ==== Sys2Proof/Word.lean ====
section
/-! DEFINITION. The value types of the rules (spec/00_scope.md section 4, "Types used by the rules"): bits, bytes, words, the sign of a sample, a tone segment, one pair of the output stream. -/

namespace Sys2Proof

/-- `Bit`: 0 or 1 (00_scope.md section 4). -/
abbrev Bit := BitVec 1

/-- `Byte`: 0 to 255 (00_scope.md section 4). -/
abbrev Byte := BitVec 8

/-- A command word, `CMD_W` = 16 bits (00_scope.md R4, 30_encoding.md R37). -/
abbrev CmdWord := BitVec 16

/-- The value of a register transaction, `REG_W` = 32 bits (00_scope.md R4, 10_state.md R8). -/
abbrev Word := BitVec 32

/-- `Sign`, and so the abstract `Sample`: `POS` or `NEG` (00_scope.md section 4). -/
inductive Sign where
  | pos
  | neg
  deriving DecidableEq, Repr

/-- `neg(POS) = NEG`, `neg(NEG) = POS` (00_scope.md section 4). -/
def Sign.flip : Sign → Sign
  | .pos => .neg
  | .neg => .pos

/-- A tone segment `(f, d)`: frequency in Hz and duration in ms, both naturals (00_scope.md section 4,
`Seg`). Amplitude, sample rate and waveform are constants and are not carried. -/
structure Seg where
  freq : Nat
  dur  : Nat
  deriving DecidableEq, Repr

/-- One pair `(v, s)` of the stream history `OUT`: the sample and the start-of-segment flag
(10_state.md R20). -/
structure OutPair where
  sample : Sign
  sos    : Bool
  deriving DecidableEq, Repr

end Sys2Proof
end

