-- ==== Sys2Proof/Config.lean ====
section
/-! DEFINITION. The physical constants (00_scope.md R3), the parameters (R4) and the free values of the model. -/

namespace Sys2Proof

/-- `FS`, samples per second (00_scope.md R3). -/
def Config.FS : Nat := 64000
/-- `F1`, the low carrier in Hz (00_scope.md R3). -/
def Config.F1 : Nat := 1000
/-- `F2`, the high carrier in Hz (00_scope.md R3). -/
def Config.F2 : Nat := 2000
/-- `AMP`, the amplitude factor of every tone, a fraction of full scale (00_scope.md R3: 0.2 = 1/5). -/
def Config.AMP : Rat := 1 / 5
/-- `T_LONG`, long pulse of a bit in ms (00_scope.md R3). -/
def Config.T_LONG : Nat := 6
/-- `T_SHORT`, short pulse of a bit in ms (00_scope.md R3). -/
def Config.T_SHORT : Nat := 3
/-- `T_LEAD`, lead sync in ms (00_scope.md R3). -/
def Config.T_LEAD : Nat := 4000
/-- `T_MID`, mid sync in ms (00_scope.md R3). -/
def Config.T_MID : Nat := 2000
/-- `T_TRAIL`, fail or trailer sync in ms (00_scope.md R3). -/
def Config.T_TRAIL : Nat := 2000
/-- `HDR_LEN`, the number of header bytes (00_scope.md R3). -/
def Config.HDR_LEN : Nat := 7
/-- `BITS_PER_BYTE_FRAME`: start, eight data bits, stop (00_scope.md R3). -/
def Config.BITS_PER_BYTE_FRAME : Nat := 10

/-- `CODE_POS` = +6553 = 0x1999, the port code of a `POS` sample (00_scope.md R4). -/
def Config.CODE_POS : BitVec 16 := 0x1999#16
/-- `CODE_NEG` = -6553 = 0xE667, the port code of a `NEG` sample (00_scope.md R4). -/
def Config.CODE_NEG : BitVec 16 := 0xE667#16

/-- `DMEM_SIZE` lies in 0 to 2^27 (00_scope.md R4). -/
abbrev Config.DmemSize := Fin 134217729

/-- The two OPEN parameters of 00_scope.md R4 that a rule depends on. They are fixed for a machine: no step
writes them. They stand in State so that every statement about a state holds for every value of them
(log entry 2). -/
structure Params where
  /-- `DMEM_SIZE`, bytes of payload memory. -/
  dmemSize : Config.DmemSize
  /-- `POL0`, the sign of the first half-cycle of every segment. -/
  pol0     : Sign
  deriving DecidableEq, Repr

/-- The defaults R4 gives: `DMEM_SIZE` = 65536, `POL0` = `POS`. -/
def Params.default : Params := { dmemSize := ⟨65536, by decide⟩, pol0 := .pos }

/-- `CLK_HZ` (00_scope.md R4, OPEN, no default): an implementation's clock. No rule depends on it and nothing of
the model reads it; it has no body, so nothing can be proved of its value (log entry 2). -/
opaque Config.clkHz : Nat

/-- The content of DMEM byte `a` at power-on: a FREE VALUE (10_state.md R22, 93_implementation_defined.md U5: an
arbitrary byte fixed at power-on and stable until written). It has no body: nothing can evaluate it (log entry 1). -/
opaque Config.powerOnByte : Nat → Byte

end Sys2Proof
end

