-- ==== Sys2Proof/Syntax.lean ====
section
/-! DEFINITION. The operations of the block: one constructor for each row of spec/opcode_table.json (30_encoding.md R38, R39). -/

namespace Sys2Proof

/-- The seven operations (30_encoding.md R39). Only BIT and BYTE carry an operand in the command word; the
operands of TONE and FRAME are registers and DMEM (R38). -/
inductive Instr where
  /-- `TONE`: one tone segment of frequency FREQ and duration DUR (40_tone_source.md R48). -/
  | tone
  /-- `BIT b`: the two-pulse encoding of one bit (41_bit_encoder.md R51). -/
  | bit (b : Bit)
  /-- `BYTE x`: the framed encoding of one byte (42_byte_encoder.md R54). -/
  | byte (x : Byte)
  /-- `LEAD`: the lead sync tone (43_frame_assembler.md R61). -/
  | lead
  /-- `MID`: the mid sync tone (43_frame_assembler.md R62). -/
  | mid
  /-- `TRAIL`: the fail or trailer sync tone (43_frame_assembler.md R63). -/
  | trail
  /-- `FRAME`: one complete transmission (43_frame_assembler.md R64). -/
  | frame
  deriving DecidableEq, Repr

end Sys2Proof
end

