-- ==== Sys2Proof/WellFormed.lean ====
section
/-! DEFINITION. Well-formed operations. The operands of Instr have the exact width the encoding gives them (BIT one bit, BYTE eight; 30_encoding.md R38: all values legal), so no term of Instr is ill-formed; what the spec calls illegal is a command WORD, and Decode.lean refuses those by name. -/

namespace Sys2Proof

/-- Every operation is well-formed, constructor by constructor (30_encoding.md R38): the spec gives the operands
no range narrower than their field. Preconditions on registers (60_exceptions.md R81) are about the state and are checked at
issue. -/
def Instr.wellFormed : Instr → Bool
  | .tone => true
  | .bit _ => true
  | .byte _ => true
  | .lead => true
  | .mid => true
  | .trail => true
  | .frame => true

end Sys2Proof
end

