-- ==== Sys2Proof/Decode.lean ====
section
/-! DEFINITION. The command word: its fields, the opcode table, the decoder and the encoder (30_encoding.md R37 to R41). -/

namespace Sys2Proof

/-- Why a command word is illegal (30_encoding.md R40). The block itself records only E_ILL (60_exceptions.md R78). -/
inductive IllegalWord where
  /-- `opc` = 0x00 or `opc` in 0x08 to 0xFF. -/
  | reservedOpcode
  /-- `opc` in 0x01, 0x04, 0x05, 0x06, 0x07 with `imm8` not 0x00. -/
  | immediateNotZero
  /-- `opc` = 0x02 with `imm8[7:1]` not 0. -/
  | bitOperandTooWide
  deriving DecidableEq, Repr

/-- What `decode` answers: an operation, or `Illegal` with its reason (30_encoding.md R41). -/
inductive Decoded where
  | instr (i : Instr)
  | illegal (why : IllegalWord)
  deriving DecidableEq, Repr

/-- `opc = w[15:8]` (30_encoding.md R37). -/
def opcField (w : CmdWord) : BitVec 8 := w.extractLsb' 8 8

/-- `imm8 = w[7:0]` (30_encoding.md R37). -/
def immField (w : CmdWord) : Byte := w.extractLsb' 0 8

/-- An operation that takes no immediate: `imm8` must be 0x00 (30_encoding.md R38, R40). -/
def decodeNoImm (i : Instr) (imm : Byte) : Decoded :=
  if imm = 0x00#8 then .instr i else .illegal .immediateNotZero

/-- `BIT`: `imm8[7:1]` must be 0 and `b = imm8[0]` (30_encoding.md R38, R40). -/
def decodeBit (imm : Byte) : Decoded :=
  if imm.extractLsb' 1 7 = 0#7 then .instr (.bit (imm.extractLsb' 0 1)) else .illegal .bitOperandTooWide

/-- `decode`, total on 16-bit words (30_encoding.md R41). -/
def decode (w : CmdWord) : Decoded :=
  if opcField w = 0x01#8 then decodeNoImm .tone (immField w)
  else if opcField w = 0x02#8 then decodeBit (immField w)
  else if opcField w = 0x03#8 then .instr (.byte (immField w))
  else if opcField w = 0x04#8 then decodeNoImm .lead (immField w)
  else if opcField w = 0x05#8 then decodeNoImm .mid (immField w)
  else if opcField w = 0x06#8 then decodeNoImm .trail (immField w)
  else if opcField w = 0x07#8 then decodeNoImm .frame (immField w)
  else .illegal .reservedOpcode

/-- `encode` (30_encoding.md R41). -/
def encode : Instr → CmdWord
  | .tone => 0x0100#16
  | .bit b => 0x0200#16 + b.setWidth 16
  | .byte x => 0x0300#16 + x.setWidth 16
  | .lead => 0x0400#16
  | .mid => 0x0500#16
  | .trail => 0x0600#16
  | .frame => 0x0700#16

/-- One row of the opcode map: a word `w` selects the row when `(w & mask) = bits` (30_encoding.md R39; `bits` is
the column `match` there). -/
structure OpcodeRow where
  mnemonic : String
  bits     : CmdWord
  mask     : CmdWord
  deriving DecidableEq, Repr

/-- `(w & mask) = match` (30_encoding.md R39). -/
def OpcodeRow.selects (r : OpcodeRow) (w : CmdWord) : Bool := w &&& r.mask == r.bits

/-- The opcode map (30_encoding.md R39), written from its columns `match` and `mask`. -/
def opcodeTable : List OpcodeRow :=
  [ ⟨"TONE",  0x0100#16, 0xFFFF#16⟩,
    ⟨"BIT",   0x0200#16, 0xFFFE#16⟩,
    ⟨"BYTE",  0x0300#16, 0xFF00#16⟩,
    ⟨"LEAD",  0x0400#16, 0xFFFF#16⟩,
    ⟨"MID",   0x0500#16, 0xFFFF#16⟩,
    ⟨"TRAIL", 0x0600#16, 0xFFFF#16⟩,
    ⟨"FRAME", 0x0700#16, 0xFFFF#16⟩ ]

/-- The mnemonic of an operation (30_encoding.md R39). -/
def mnemonicOf : Instr → String
  | .tone => "TONE"
  | .bit _ => "BIT"
  | .byte _ => "BYTE"
  | .lead => "LEAD"
  | .mid => "MID"
  | .trail => "TRAIL"
  | .frame => "FRAME"

/-- A word is legal when it selects a row of the opcode map (30_encoding.md R40). -/
def legalWord (w : CmdWord) : Bool := opcodeTable.any (fun r => r.selects w)

/-- The operation of a decoding, none for `Illegal`. -/
def instrOf? : Decoded → Option Instr
  | .instr i => some i
  | .illegal _ => none

/-- The operation the decoder reads from a table word of `nbits` bits: a command is one 16-bit word (30_encoding.md
R37), every bit above `nbits` is 0, and no instruction is longer than 16 bits. -/
def decodeTableWord (nbits w : Nat) : Option Instr :=
  if nbits ≤ 16 then instrOf? (decode (BitVec.ofNat 16 (w % 2 ^ nbits))) else none

end Sys2Proof
end

