-- ==== Sys2Proof/Machine/State.lean ====
section
/-! DEFINITION. The state of the machine as plain data: the block's own state (10_state.md R7), the environment's records and pending inputs, the state after reset, and the reasons a step can stop. -/

namespace Sys2Proof.Machine

/-- The five error causes (60_exceptions.md R78). -/
inductive Flag where
  /-- `E_ILL`: an illegal command word was written (R79). -/
  | eIll
  /-- `E_BUSY`: a command was written while busy (R80). -/
  | eBusy
  /-- `E_OPD`: a legal command whose operands violate its precondition (R81). -/
  | eOpd
  /-- `E_LOCK`: an operand register or DMEM was written while busy (R82). -/
  | eLock
  /-- `E_ADDR`: an address that does not exist was accessed (R83). -/
  | eAddr
  deriving DecidableEq, Repr

/-- `STATUS` (10_state.md R10): `BUSY` and the five sticky flags. Its reserved bits read 0 and ignore writes, so
they hold no state; `Status.word` (Machine/Flags.lean) is the word software reads. -/
structure Status where
  busy  : Bool
  eIll  : Bool
  eBusy : Bool
  eOpd  : Bool
  eLock : Bool
  eAddr : Bool
  deriving DecidableEq, Repr

/-- The implemented registers (20_memory.md R25). -/
inductive Reg where
  | cmd
  | status
  | freq
  | dur
  | dlen
  | segi
  | sn
  | hdr (i : Fin 7)
  deriving DecidableEq, Repr

/-- The four host transactions (20_memory.md R24). Register numbers and DMEM addresses are naturals: an address
that does not exist can be named, and is refused. -/
inductive Txn where
  | regRead  (r : Nat)
  | regWrite (r : Nat) (v : Word)
  | memRead  (a : Nat)
  | memWrite (a : Nat) (v : Byte)
  deriving DecidableEq, Repr

/-- One pending action of the host (30_encoding.md R42): a transaction, the `Reset` event, or the
pseudo-instruction `WAIT`, which reads STATUS until bit 0 of the value read is 0. -/
inductive HostAct where
  | txn (t : Txn)
  | reset
  | wait
  deriving DecidableEq, Repr

/-- Whose turn it is: the host's, or a moment at which the sink drives `out_ready` to a level
(44_sequencer_and_stream.md R71; 93_implementation_defined.md U10, U11). -/
inductive Turn where
  | host
  | sink (ready : Bool)
  deriving DecidableEq, Repr

/-- A value a host read returned: 32 bits from a register, 8 from DMEM (20_memory.md R24, R28). -/
inductive ReadValue where
  | reg (v : Word)
  | mem (v : Byte)
  deriving DecidableEq, Repr

/-- DMEM as the list of the bytes written since power-on, addresses strictly rising (log entry 1). -/
abbrev Memory := List Host.Cell

/-- The state. The first ten fields after `params` are the block's own (10_state.md R7); `out`, `reads`, `host`,
`schedule` and `outReady` belong to the environment and no register of the block holds them (log entries 3, 4, 5). -/
structure State where
  /-- The OPEN parameters, fixed for the machine (00_scope.md R4). -/
  params   : Params
  /-- `CMD`, the last accepted command word (10_state.md R9). -/
  cmd      : CmdWord
  /-- `STATUS` (10_state.md R10). -/
  status   : Status
  /-- `FREQ` (10_state.md R11). -/
  freq     : BitVec 16
  /-- `DUR` (10_state.md R12). -/
  dur      : BitVec 16
  /-- `DLEN` (10_state.md R13). -/
  dlen     : Word
  /-- `HDR[0]` to `HDR[6]` (10_state.md R14). -/
  hdr      : Vector Byte 7
  /-- `SEGI`, the index of the current segment (10_state.md R15). -/
  segi     : Word
  /-- `SN`, the index of the next sample within the segment (10_state.md R16). -/
  sn       : Word
  /-- `DMEM` (10_state.md R18). -/
  dmem     : Memory
  /-- `OUT`, the environment's record of the pairs transferred, oldest first (10_state.md R20). -/
  out      : List OutPair
  /-- The values the host's reads returned, oldest first (20_memory.md R24). -/
  reads    : List ReadValue
  /-- The host's pending actions, next first (30_encoding.md R42). -/
  host     : List HostAct
  /-- Whose turns come next (20_memory.md R24: the interleaving is not fixed). -/
  schedule : List Turn
  /-- `out_ready`, the level the sink drives (44_sequencer_and_stream.md R71). -/
  outReady : Bool
  deriving DecidableEq, Repr

/-- `STATUS` = 0: idle, no flag (10_state.md R22). -/
def Status.clear : Status :=
  { busy := false, eIll := false, eBusy := false, eOpd := false, eLock := false, eAddr := false }

/-- The machine after power-on and `Reset` (10_state.md R22): every register 0, nothing in DMEM written yet, OUT
empty (95_test_vectors.md, conventions). The parameters at R4's defaults, no host action pending, no turn scheduled and a ready
sink are the model's own values (log entries 2, 3, 4). -/
def State.reset : State :=
  { params   := Params.default
    cmd      := 0x0000#16
    status   := Status.clear
    freq     := 0#16
    dur      := 0#16
    dlen     := 0#32
    hdr      := Vector.replicate 7 0x00#8
    segi     := 0#32
    sn       := 0#32
    dmem     := []
    out      := []
    reads    := []
    host     := []
    schedule := []
    outReady := true }

/-- Why a step stops. The block has no undefined transition (93_implementation_defined.md), so a step faults only in a state
no run reaches. -/
inductive Fault where
  /-- Raised by `transfer` (Machine/Sequencer.lean) in a busy state that has no current segment: CMD is no legal
  word, or SEGI is not below the number of segments. The invariant of 44_sequencer_and_stream.md R68 excludes such a state
  and the spec gives it no meaning. Safe: the model stops where the spec says nothing (log entry 6). -/
  | noCurrentSegment
  deriving DecidableEq, Repr

/-- Why an instruction has no meaning. -/
inductive Refusal where
  /-- Raised by an arm of `exec` whose instruction is not modelled yet; no arm does. Safe. -/
  | notModelled (mnemonic : String)
  deriving DecidableEq, Repr

end Sys2Proof.Machine
end

