-- ==== Sys2Proof/Machine/Flags.lean ====
section
/-! DEFINITION. The STATUS register: flag codes and bit places, the word software reads, setting a flag, write-one-to-clear (10_state.md R10, 60_exceptions.md R78, R86). The block has no arithmetic flags (10_state.md R21). -/

namespace Sys2Proof.Machine

/-- The code of a cause (60_exceptions.md R78). -/
def Flag.code : Flag → Nat
  | .eIll => 0
  | .eBusy => 1
  | .eOpd => 2
  | .eLock => 3
  | .eAddr => 4

/-- The flag's bit of STATUS: its code plus 8 (60_exceptions.md R78). -/
def Flag.bit (f : Flag) : Nat := f.code + 8

/-- `STATUS.E_x`. -/
def Status.get (st : Status) : Flag → Bool
  | .eIll => st.eIll
  | .eBusy => st.eBusy
  | .eOpd => st.eOpd
  | .eLock => st.eLock
  | .eAddr => st.eAddr

/-- `STATUS.E_x <- 1`; setting a flag that is already set changes nothing (10_state.md R10). -/
def Status.raise (st : Status) : Flag → Status
  | .eIll => { st with eIll := true }
  | .eBusy => { st with eBusy := true }
  | .eOpd => { st with eOpd := true }
  | .eLock => { st with eLock := true }
  | .eAddr => { st with eAddr := true }

/-- `STATUS.BUSY <- b`. -/
def Status.setBusy (st : Status) (b : Bool) : Status := { st with busy := b }

/-- A word whose bit `k` is `b` and whose other bits are 0. -/
def bitAt (k : Nat) (b : Bool) : Word := (BitVec.ofBool b).setWidth 32 <<< k

/-- The value read from STATUS (10_state.md R10): BUSY in bit 0, the flags in bits 8 to 12, every other bit 0. -/
def Status.word (st : Status) : Word :=
  bitAt 0 st.busy ||| bitAt Flag.eIll.bit st.eIll ||| bitAt Flag.eBusy.bit st.eBusy |||
    bitAt Flag.eOpd.bit st.eOpd ||| bitAt Flag.eLock.bit st.eLock ||| bitAt Flag.eAddr.bit st.eAddr

/-- A write of `v` to STATUS (10_state.md R10): each flag whose bit of `v` is 1 is cleared, every other bit of `v` is
ignored and BUSY is read only. -/
def Status.writeOneToClear (st : Status) (v : Word) : Status :=
  { busy  := st.busy
    eIll  := st.eIll && !v.getLsbD Flag.eIll.bit
    eBusy := st.eBusy && !v.getLsbD Flag.eBusy.bit
    eOpd  := st.eOpd && !v.getLsbD Flag.eOpd.bit
    eLock := st.eLock && !v.getLsbD Flag.eLock.bit
    eAddr := st.eAddr && !v.getLsbD Flag.eAddr.bit }

end Sys2Proof.Machine
end

