-- ==== Sys2Proof/Machine/Ops.lean ====
section
/-! DEFINITION. The named operations over DMEM and the registers, refusing a transaction (`raise`), and the Reset event (10_state.md R8 to R22, 20_memory.md R24 to R29, 60_exceptions.md R77, 70_reset_and_hazards.md R91). -/

namespace Sys2Proof.Machine

/-- What a DMEM address that the list does not name holds: no written value (log entry 1). -/
def Memory.unlisted : Option Byte := none

/-- The byte written at `a` since power-on, if any. -/
def Memory.find? (m : Memory) (a : Nat) : Option Byte :=
  match m with
  | [] => Memory.unlisted
  | c :: rest => if c.1 = a then some c.2 else Memory.find? rest a

/-- `m` with `v` written at `a`, addresses kept rising. -/
def Memory.store (m : Memory) (a : Nat) (v : Byte) : Memory :=
  match m with
  | [] => [(a, v)]
  | c :: rest =>
    if a < c.1 then (a, v) :: c :: rest
    else if a = c.1 then (a, v) :: rest
    else c :: Memory.store rest a v

/-- The canonical form: addresses strictly rising, and no entry equal to what an unlisted address holds. -/
abbrev Memory.wf (m : Memory) : Prop :=
  m.Pairwise (fun c d => c.1 < d.1) ∧ ∀ c ∈ m, some c.2 ≠ Memory.unlisted

/-- `DMEM[a]`: the last byte written, or the power-on content, a free value (10_state.md R18, R22;
93_implementation_defined.md U5). -/
def dmemByte (s : State) (a : Nat) : Byte := (Memory.find? s.dmem a).getD (Config.powerOnByte a)

/-- `DMEM[a] <- v` (20_memory.md R24). -/
def storeByte (a : Nat) (v : Byte) (s : State) : State := { s with dmem := Memory.store s.dmem a v }

/-- `a < DMEM_SIZE` (20_memory.md R24, R29). -/
def dmemHas (s : State) (a : Nat) : Bool := decide (a < s.params.dmemSize.val)

/-- `raise E_x`: the one thing a refused transaction does (60_exceptions.md R77). There are no traps, so nothing is
saved and control goes nowhere (R87). -/
def raise (f : Flag) (s : State) : State := { s with status := s.status.raise f }

/-- Clearing flags by a STATUS write: the block's counterpart of a return (60_exceptions.md R86). -/
def clearFlags (v : Word) (s : State) : State := { s with status := s.status.writeOneToClear v }

/-- The environment records the value a read returned. -/
def returnRead (v : ReadValue) (s : State) : State := { s with reads := s.reads ++ [v] }

/-- `emit(v, s)`: append the pair to OUT (00_scope.md section 4, 10_state.md R20). -/
def emit (p : OutPair) (s : State) : State := { s with out := s.out ++ [p] }

/-- `(SEGI, SN) <- (k, n)` (00_scope.md section 4). -/
def moveTo (k n : Word) (s : State) : State := { s with segi := k, sn := n }

/-- `STATUS.BUSY <- b`. -/
def setBusy (b : Bool) (s : State) : State := { s with status := s.status.setBusy b }

/-- `CMD <- w`, done at issue only (10_state.md R9). -/
def latchCommand (w : CmdWord) (s : State) : State := { s with cmd := w }

/-- The register of a number, none where the map marks the number unimplemented (20_memory.md R25). -/
def regOfNumber? : Nat → Option Reg
  | 0x00 => some .cmd
  | 0x01 => some .status
  | 0x02 => some .freq
  | 0x03 => some .dur
  | 0x04 => some .dlen
  | 0x05 => some .segi
  | 0x06 => some .sn
  | 0x08 => some (.hdr 0)
  | 0x09 => some (.hdr 1)
  | 0x0A => some (.hdr 2)
  | 0x0B => some (.hdr 3)
  | 0x0C => some (.hdr 4)
  | 0x0D => some (.hdr 5)
  | 0x0E => some (.hdr 6)
  | _ => none

/-- The number of a register (20_memory.md R25; 10_state.md R14: `HDR[i]` at 0x08 + i). -/
def regNumber : Reg → Nat
  | .cmd => 0x00
  | .status => 0x01
  | .freq => 0x02
  | .dur => 0x03
  | .dlen => 0x04
  | .segi => 0x05
  | .sn => 0x06
  | .hdr i => 0x08 + i.val

/-- The read value of a register, zero-extended to 32 bits (10_state.md R8). -/
def regValue (r : Reg) (s : State) : Word :=
  match r with
  | .cmd => s.cmd.setWidth 32
  | .status => s.status.word
  | .freq => s.freq.setWidth 32
  | .dur => s.dur.setWidth 32
  | .dlen => s.dlen
  | .segi => s.segi
  | .sn => s.sn
  | .hdr i => s.hdr[i].setWidth 32

/-- `FREQ <- v`, low 16 bits (10_state.md R8, R11). -/
def setFreq (v : Word) (s : State) : State := { s with freq := v.setWidth 16 }

/-- `DUR <- v`, low 16 bits (10_state.md R8, R12). -/
def setDur (v : Word) (s : State) : State := { s with dur := v.setWidth 16 }

/-- `DLEN <- v` (10_state.md R13). -/
def setDlen (v : Word) (s : State) : State := { s with dlen := v }

/-- `HDR[i] <- v`, low 8 bits (10_state.md R8, R14). -/
def setHdr (i : Fin 7) (v : Word) (s : State) : State := { s with hdr := s.hdr.set i.val (v.setWidth 8) i.isLt }

/-- The `Reset` event: every register takes its reset value, DMEM and the environment's records stay
(70_reset_and_hazards.md R91, R92; 10_state.md R20, R22). -/
def resetEvent (s : State) : State :=
  { s with
    cmd    := 0x0000#16
    status := Status.clear
    freq   := 0#16
    dur    := 0#16
    dlen   := 0#32
    hdr    := Vector.replicate 7 0x00#8
    segi   := 0#32
    sn     := 0#32 }

end Sys2Proof.Machine
end

