-- ==== Sys2Proof/Machine/Operands.lean ====
section
/-! DEFINITION. Operand assembly: where each operation's operands come from and their preconditions (30_encoding.md R38, 60_exceptions.md R81). -/

namespace Sys2Proof.Machine

/-- TONE's `f`: FREQ as an unsigned natural, in Hz (30_encoding.md R38). -/
def toneFreq (s : State) : Nat := s.freq.toNat

/-- TONE's `d`: DUR as an unsigned natural, in ms (30_encoding.md R38). -/
def toneDur (s : State) : Nat := s.dur.toNat

/-- FRAME's header bytes `[HDR[0], ..., HDR[6]]` in index order (43_frame_assembler.md R57, R64). -/
def frameHeader (s : State) : List Byte := s.hdr.toList

/-- FRAME's data count `L = DLEN` (43_frame_assembler.md R64). -/
def frameCount (s : State) : Nat := s.dlen.toNat

/-- FRAME's data bytes `[DMEM[0], ..., DMEM[DLEN-1]]` (43_frame_assembler.md R64, 20_memory.md R32). -/
def frameData (s : State) : List Byte := (List.range (frameCount s)).map (dmemByte s)

/-- TONE's precondition: the frequency is positive (60_exceptions.md R81 (a)). -/
def toneOperandsOk (s : State) : Bool := toneFreq s != 0

/-- FRAME's precondition: the payload memory can hold the data count (60_exceptions.md R81 (b)). -/
def frameOperandsOk (s : State) : Bool := Nat.ble (frameCount s) s.params.dmemSize.val

/-- The operand precondition of an operation: only TONE and FRAME have one (60_exceptions.md R81). -/
def operandsOk (i : Instr) (s : State) : Bool :=
  match i with
  | .tone => toneOperandsOk s
  | .bit _ => true
  | .byte _ => true
  | .lead => true
  | .mid => true
  | .trail => true
  | .frame => frameOperandsOk s

end Sys2Proof.Machine
end

