-- ==== Sys2Proof/Machine/Segments.lean ====
section
/-! DEFINITION. What an operation denotes: segments and their samples. Tone Source (40_tone_source.md R43 to R48), Bit Encoder (41_bit_encoder.md R49), Byte Encoder (42_byte_encoder.md R52, R53), Frame Assembler (43_frame_assembler.md R55 to R60), the segment list of an operation and its stream (44_sequencer_and_stream.md R66, R73). -/

namespace Sys2Proof.Machine

/-! ### The Tone Source -/

/-- `N(d) = round(FS * d / 1000)`, the number of samples of a segment of `d` ms (40_tone_source.md R43). The quotient is
exact at FS = 64000, so no rounding happens. -/
def segLen (d : Nat) : Nat := Config.FS * d / 1000

/-- `sq(f, k)`: POL0 in the first half-cycle, its opposite in the second, computed in the naturals
(40_tone_source.md R44). The only waveform is Square (00_scope.md R3). -/
def sq (pol0 : Sign) (f k : Nat) : Sign :=
  if 2 * (k * f % Config.FS) < Config.FS then pol0 else pol0.flip

/-- `samples((f, d)) = [sq(f, k) | k <- 0..N(d)-1]` (40_tone_source.md R47): the phase starts at 0 in every segment
(R45). -/
def samples (pol0 : Sign) (g : Seg) : List Sign := (List.range (segLen g.dur)).map (sq pol0 g.freq)

/-- The real value of a sample, a fraction of full scale (40_tone_source.md R46). -/
def sampleValue : Sign → Rat
  | .pos => Config.AMP
  | .neg => -Config.AMP

/-- The port code of a sample (44_sequencer_and_stream.md R71). -/
def sampleCode : Sign → BitVec 16
  | .pos => Config.CODE_POS
  | .neg => Config.CODE_NEG

/-! ### The Bit Encoder -/

/-- `encode_bit(b)`: bit 0 is 2000 Hz for 6 ms then 1000 Hz for 3 ms, bit 1 is 2000 Hz for 3 ms then 1000 Hz for 6 ms
(41_bit_encoder.md R49). -/
def encodeBit (b : Bit) : List Seg :=
  if b = 0#1 then [⟨Config.F2, Config.T_LONG⟩, ⟨Config.F1, Config.T_SHORT⟩]
  else [⟨Config.F2, Config.T_SHORT⟩, ⟨Config.F1, Config.T_LONG⟩]

/-- Segment `k` of `encode_bit(b)`: the F2 pulse is segment 0, the F1 pulse segment 1 (41_bit_encoder.md R49, R50). -/
def bitSeg (b : Bit) (k : Nat) : Seg :=
  if k = 0 then ⟨Config.F2, if b = 0#1 then Config.T_LONG else Config.T_SHORT⟩
  else ⟨Config.F1, if b = 0#1 then Config.T_SHORT else Config.T_LONG⟩

/-! ### The Byte Encoder -/

/-- `slot(x, s)`: start bit 0, data bits 7 down to 0 in slots 1 to 8, stop bit 1 (42_byte_encoder.md R52). -/
def slot (x : Byte) (s : Nat) : Bit :=
  if s = 0 then 0#1
  else if s ≤ 8 then x.extractLsb' (8 - s) 1
  else 1#1

/-- `encode_byte(x)`: the encodings of slots 0 to 9, concatenated (42_byte_encoder.md R52). -/
def encodeByte (x : Byte) : List Seg :=
  (List.range Config.BITS_PER_BYTE_FRAME).flatMap (fun s => encodeBit (slot x s))

/-- `byteseg(x, j)`, the closed form of segment `j` of `encode_byte(x)` (42_byte_encoder.md R53). -/
def byteSeg (x : Byte) (j : Nat) : Seg := bitSeg (slot x (j / 2)) (j % 2)

/-! ### The Frame Assembler -/

/-- `LEADSEG = (F1, T_LEAD)` (43_frame_assembler.md R55). -/
def leadSeg : Seg := ⟨Config.F1, Config.T_LEAD⟩

/-- `MIDSEG = (F2, T_MID)` (43_frame_assembler.md R55). -/
def midSeg : Seg := ⟨Config.F2, Config.T_MID⟩

/-- `TRAILSEG = (F2, T_TRAIL)` (43_frame_assembler.md R55). -/
def trailSeg : Seg := ⟨Config.F2, Config.T_TRAIL⟩

/-- `frame(h, data)`: lead sync, header bytes, mid sync, data bytes, trailer sync (43_frame_assembler.md R56). -/
def frame (h data : List Byte) : List Seg :=
  [leadSeg] ++ h.flatMap encodeByte ++ [midSeg] ++ data.flatMap encodeByte ++ [trailSeg]

/-- `framesegat(h, data, k)`, the closed form of segment `k` of a frame with `len` data bytes
(43_frame_assembler.md R60). -/
def frameSegAt (h : List Byte) (len : Nat) (data : Nat → Byte) (k : Nat) : Seg :=
  if k = 0 then leadSeg
  else if k ≤ 140 then byteSeg (h.getD ((k - 1) / 20) 0x00#8) ((k - 1) % 20)
  else if k = 141 then midSeg
  else if k ≤ 141 + 20 * len then byteSeg (data ((k - 142) / 20)) ((k - 142) % 20)
  else trailSeg

/-! ### The operation as a segment list -/

/-- `segs(op)` (44_sequencer_and_stream.md R66). -/
def segs (i : Instr) (s : State) : List Seg :=
  match i with
  | .tone => [⟨toneFreq s, toneDur s⟩]
  | .bit b => encodeBit b
  | .byte x => encodeByte x
  | .lead => [leadSeg]
  | .mid => [midSeg]
  | .trail => [trailSeg]
  | .frame => frame (frameHeader s) (frameData s)

/-- `nseg(op)` (44_sequencer_and_stream.md R66). -/
def nseg (i : Instr) (s : State) : Nat :=
  match i with
  | .tone => 1
  | .bit _ => 2
  | .byte _ => 20
  | .lead => 1
  | .mid => 1
  | .trail => 1
  | .frame => 143 + 20 * frameCount s

/-- `segat(op, k)`, for `k < nseg(op)` (44_sequencer_and_stream.md R66): what the sequencer computes when it needs a
segment. -/
def segAt (i : Instr) (s : State) (k : Nat) : Seg :=
  match i with
  | .tone => ⟨toneFreq s, toneDur s⟩
  | .bit b => bitSeg b k
  | .byte x => byteSeg x k
  | .lead => leadSeg
  | .mid => midSeg
  | .trail => trailSeg
  | .frame => frameSegAt (frameHeader s) (frameCount s) (dmemByte s) k

/-- `mark`: flag 1 on the first sample of a segment, 0 on the others (44_sequencer_and_stream.md R73). -/
def mark : List Sign → List OutPair
  | [] => []
  | v :: vs => ⟨v, true⟩ :: vs.map (fun u => ⟨u, false⟩)

/-- The pairs a list of segments emits: `concat [ mark(samples(s)) | s <- gs ]`. -/
def markedSegs (pol0 : Sign) (gs : List Seg) : List OutPair := gs.flatMap (fun g => mark (samples pol0 g))

/-- `stream(op)` (44_sequencer_and_stream.md R73). -/
def stream (i : Instr) (s : State) : List OutPair := markedSegs s.params.pol0 (segs i s)

/-- The number of steps of an operation: `sum [ N(d) | (f, d) <- segs(op) ]` (44_sequencer_and_stream.md R75). -/
def stepsOf (i : Instr) (s : State) : Nat := ((segs i s).map (fun g => segLen g.dur)).sum

end Sys2Proof.Machine
end

