-- ==== Sys2Proof/Machine/Sequencer.lean ====
section
/-! DEFINITION. The sequencer: normalise, issue, the step that transfers one sample, the output port, the hidden phase (44_sequencer_and_stream.md R67 to R72, 10_state.md R19). -/

namespace Sys2Proof.Machine

/-- The loop of `normalise`: from segment `k`, the first non-empty segment or the end of the list; `fuel` is the number
of segments left (44_sequencer_and_stream.md R68). -/
def skipEmpty (i : Instr) (s : State) (fuel k : Nat) : Nat :=
  match fuel with
  | 0 => k
  | n + 1 => if segLen (segAt i s k).dur = 0 then skipEmpty i s n (k + 1) else k

/-- `normalise()` for the running operation `i`: move SEGI past zero-length segments, then BUSY is 1 exactly when a
segment is left (44_sequencer_and_stream.md R68). -/
def normalise (i : Instr) (s : State) : State :=
  let k := skipEmpty i s (nseg i s - s.segi.toNat) s.segi.toNat
  setBusy (decide (k < nseg i s)) { s with segi := BitVec.ofNat 32 k }

/-- The accepted command write, the issue: latch the word, start at (0, 0), normalise
(44_sequencer_and_stream.md R67). -/
def accept (i : Instr) (s : State) : State := normalise i (moveTo 0#32 0#32 (latchCommand (encode i) s))

/-- A legal command is written: refused when busy, refused when its operand precondition fails, else issued
(44_sequencer_and_stream.md R67, 60_exceptions.md R84). -/
def issue (i : Instr) (operands : Bool) (s : State) : Host.Outcome State Fault Refusal :=
  if s.status.busy then .next (raise .eBusy s)
  else if operands then .next (accept i s)
  else .next (raise .eOpd s)

/-- The segment the sequencer is emitting, none when CMD names no operation or SEGI is past the last segment. -/
def currentSeg? (s : State) : Option Seg :=
  match decode s.cmd with
  | .illegal _ => none
  | .instr i => if s.segi.toNat < nseg i s then some (segAt i s s.segi.toNat) else none

/-- The pair offered while segment `g` runs: `(sq(f, SN), SN = 0)` (44_sequencer_and_stream.md R69). -/
def offered (g : Seg) (s : State) : OutPair := ⟨sq s.params.pol0 g.freq s.sn.toNat, decide (s.sn.toNat = 0)⟩

/-- The position after a sample of segment `g` of operation `i` (44_sequencer_and_stream.md R69): the next sample of the
segment, or the next non-empty segment. -/
def advance (i : Instr) (g : Seg) (s : State) : State :=
  if s.sn.toNat + 1 < segLen g.dur then moveTo s.segi (s.sn + 1#32) s
  else normalise i (moveTo (s.segi + 1#32) 0#32 s)

/-- The step: transfer of one sample to a ready sink, enabled when BUSY = 1 (44_sequencer_and_stream.md R69). An idle block
has no enabled step and keeps its state (60_exceptions.md R90). -/
def transfer (s : State) : Host.Outcome State Fault Refusal :=
  if s.status.busy then
    match decode s.cmd with
    | .illegal _ => .fault .noCurrentSegment
    | .instr i =>
      if s.segi.toNat < nseg i s then
        .next (advance i (segAt i s s.segi.toNat) (emit (offered (segAt i s s.segi.toNat) s) s))
      else .fault .noCurrentSegment
  else .next s

/-- `out_valid` (44_sequencer_and_stream.md R71). -/
def outValid (s : State) : Bool := s.status.busy

/-- `out_data`: the code of the sample on offer while busy, 0x0000 while idle (44_sequencer_and_stream.md R71). -/
def outData (s : State) : BitVec 16 :=
  if s.status.busy then
    match currentSeg? s with
    | some g => sampleCode (offered g s).sample
    | none => 0x0000#16
  else 0x0000#16

/-- `out_sos`: 1 while busy at the first sample of a segment, else 0 (44_sequencer_and_stream.md R71). -/
def outSos (s : State) : Bool := s.status.busy && decide (s.sn.toNat = 0)

/-- `PH`, the hidden phase accumulator, a function of readable state: `(SN * f) mod FS` while busy (10_state.md R19), 0
after reset (R22). -/
def phase (s : State) : Nat :=
  match currentSeg? s with
  | some g => s.sn.toNat * g.freq % Config.FS
  | none => 0

end Sys2Proof.Machine
end

