-- ==== Sys2Proof/Machine/BitByte.lean ====
section
/-! DEFINITION. BIT and BYTE (41_bit_encoder.md R51, 42_byte_encoder.md R54). -/

namespace Sys2Proof.Machine

/-- `BIT b`: issue the two pulses `encode_bit(b)`; busy gives E_BUSY; there is no operand precondition
(41_bit_encoder.md R51). -/
def execBit (b : Bit) (s : State) : Host.Outcome State Fault Refusal := issue (.bit b) true s

/-- `BYTE x`: issue the twenty segments `encode_byte(x)`; busy gives E_BUSY; there is no operand precondition
(42_byte_encoder.md R54). -/
def execByte (x : Byte) (s : State) : Host.Outcome State Fault Refusal := issue (.byte x) true s

end Sys2Proof.Machine
end

