-- ==== Sys2Proof/Machine/Frame.lean ====
section
/-! DEFINITION. LEAD, MID, TRAIL and FRAME (43_frame_assembler.md R61 to R64). -/

namespace Sys2Proof.Machine

/-- `LEAD`: issue the lead sync tone; busy gives E_BUSY (43_frame_assembler.md R61). -/
def execLead (s : State) : Host.Outcome State Fault Refusal := issue .lead true s

/-- `MID`: issue the mid sync tone; busy gives E_BUSY (43_frame_assembler.md R62). -/
def execMid (s : State) : Host.Outcome State Fault Refusal := issue .mid true s

/-- `TRAIL`: issue the trailer sync tone; busy gives E_BUSY (43_frame_assembler.md R63). -/
def execTrail (s : State) : Host.Outcome State Fault Refusal := issue .trail true s

/-- `FRAME`: issue the whole frame of HDR[0..6] and DMEM[0..DLEN-1]; busy gives E_BUSY, DLEN above DMEM_SIZE gives
E_OPD (43_frame_assembler.md R64). -/
def execFrame (s : State) : Host.Outcome State Fault Refusal := issue .frame (frameOperandsOk s) s

end Sys2Proof.Machine
end

