-- ==== Sys2Proof/Machine/Tone.lean ====
section
/-! DEFINITION. TONE (40_tone_source.md R48). -/

namespace Sys2Proof.Machine

/-- `TONE`: issue the one segment (FREQ, DUR); busy gives E_BUSY, FREQ = 0 gives E_OPD; with DUR = 0 the operation is
complete at issue (40_tone_source.md R48). Its segment list is `segs .tone`. -/
def execTone (s : State) : Host.Outcome State Fault Refusal := issue .tone (toneOperandsOk s) s

end Sys2Proof.Machine
end

