-- ==== Sys2Proof/Machine/Dispatch.lean ====
section
/-! DEFINITION. exec: one arm per operation of 30_encoding.md R39. -/

namespace Sys2Proof.Machine

def exec (i : Instr) (s : State) : Host.Outcome State Fault Refusal :=
  match i with
  | .tone => Sys2Proof.Machine.execTone s
  | .bit b => Sys2Proof.Machine.execBit b s
  | .byte x => Sys2Proof.Machine.execByte x s
  | .lead => Sys2Proof.Machine.execLead s
  | .mid => Sys2Proof.Machine.execMid s
  | .trail => Sys2Proof.Machine.execTrail s
  | .frame => Sys2Proof.Machine.execFrame s

end Sys2Proof.Machine
end

