-- ==== Sys2Proof/Machine/HostPort.lean ====
section
/-! DEFINITION. The host port and the environment's turns: the four transactions (20_memory.md R24 to R31), the command write (44_sequencer_and_stream.md R67), the host's pending actions (30_encoding.md R42), and a turn of the host or of the sink (R24, R71). -/

namespace Sys2Proof.Machine

/-- `RegRead(r)`: the register's value; an unimplemented number returns 0 and raises E_ADDR (20_memory.md R24, R29,
R31). -/
def regRead (r : Nat) (s : State) : State :=
  match regOfNumber? r with
  | none => returnRead (.reg 0#32) (raise .eAddr s)
  | some g => returnRead (.reg (regValue g s)) s

/-- The command write `RegWrite(0x00, v)`: busy is checked before the word is decoded; only the low 16 bits of `v` count
(44_sequencer_and_stream.md R67, 60_exceptions.md R79, R80). -/
def commandWrite (v : Word) (s : State) : Host.Outcome State Fault Refusal :=
  if s.status.busy then .next (raise .eBusy s)
  else
    match decode (v.setWidth 16) with
    | .illegal _ => .next (raise .eIll s)
    | .instr i => exec i s

/-- A write to an operand register or to DMEM: refused with E_LOCK while busy, else `write` (20_memory.md R30). -/
def lockedWrite (write : State → State) (s : State) : State :=
  if s.status.busy then raise .eLock s else write s

/-- `RegWrite(r, v)`, each register's own rule (20_memory.md R24, R29, R30; 10_state.md R8; priority 60_exceptions.md
R84). -/
def regWrite (r : Nat) (v : Word) (s : State) : Host.Outcome State Fault Refusal :=
  match regOfNumber? r with
  | none => .next (raise .eAddr s)
  | some .cmd => commandWrite v s
  | some .status => .next (clearFlags v s)
  | some .freq => .next (lockedWrite (setFreq v) s)
  | some .dur => .next (lockedWrite (setDur v) s)
  | some .dlen => .next (lockedWrite (setDlen v) s)
  | some .segi => .next s
  | some .sn => .next s
  | some (.hdr i) => .next (lockedWrite (setHdr i v) s)

/-- `MemRead(a, 1)`: the byte; an address at or above DMEM_SIZE returns 0 and raises E_ADDR (20_memory.md R24, R29). -/
def memRead (a : Nat) (s : State) : State :=
  if dmemHas s a then returnRead (.mem (dmemByte s a)) s
  else returnRead (.mem 0x00#8) (raise .eAddr s)

/-- `MemWrite(a, 1, v)`: E_ADDR at or above DMEM_SIZE, E_LOCK while busy, else stored (20_memory.md R24, R29, R30). -/
def memWrite (a : Nat) (v : Byte) (s : State) : State :=
  if dmemHas s a then lockedWrite (storeByte a v) s else raise .eAddr s

/-- One host transaction, atomic (20_memory.md R24). -/
def hostTxn (t : Txn) (s : State) : Host.Outcome State Fault Refusal :=
  match t with
  | .regRead r => .next (regRead r s)
  | .regWrite r v => regWrite r v s
  | .memRead a => .next (memRead a s)
  | .memWrite a v => .next (memWrite a v s)

/-- One poll of `WAIT`: read STATUS; the action stays pending while bit 0 of the value read is 1 (30_encoding.md R42).
`rest` is what is pending after the WAIT. -/
def pollStatus (rest : List HostAct) (s : State) : State :=
  if (regValue .status s).getLsbD 0 then regRead 0x01 s else regRead 0x01 { s with host := rest }

/-- The host's turn: its next pending action; with none pending it makes no move. -/
def hostTurn (s : State) : Host.Outcome State Fault Refusal :=
  match s.host with
  | [] => .next s
  | .txn t :: rest => hostTxn t { s with host := rest }
  | .reset :: rest => .next (resetEvent { s with host := rest })
  | .wait :: rest => .next (pollStatus rest s)

/-- The sink's turn: it drives `out_ready`; a transfer happens when it is ready and the block is busy
(44_sequencer_and_stream.md R71). -/
def sinkTurn (ready : Bool) (s : State) : Host.Outcome State Fault Refusal :=
  if ready then transfer { s with outReady := true } else .next { s with outReady := false }

/-- Whose turn it is. With no turn scheduled, a busy block with a ready sink transfers, which is the sink's fairness (R74 of
44_sequencer_and_stream.md), and otherwise the host moves (log entry 4). -/
def nextTurn (s : State) : Turn :=
  match s.schedule with
  | t :: _ => t
  | [] => if s.status.busy && s.outReady then .sink true else .host

/-- One turn. -/
def takeTurn (t : Turn) (s : State) : Host.Outcome State Fault Refusal :=
  match t with
  | .host => hostTurn s
  | .sink ready => sinkTurn ready s

/-- A command write of the low `nbits` bits of `w` becomes the host's next action, and the next turn is the host's: this
is how the block is given its next instruction (30_encoding.md R37, 20_memory.md R35). -/
def placeCommand (nbits w : Nat) (s : State) : State :=
  { s with
    host := .txn (.regWrite 0x00 ((BitVec.ofNat 16 (w % 2 ^ nbits)).setWidth 32)) :: s.host
    schedule := .host :: s.schedule }

end Sys2Proof.Machine
end

