-- ==== Sys2Proof/Machine/Step.lean ====
section
/-! DEFINITION. One step of the machine: the next turn of the environment (20_memory.md R24), and the placing of a command. -/

namespace Sys2Proof.Machine

/-- One step: take the next turn off the schedule and make it. -/
def step (s : State) : Host.Outcome State Fault Refusal :=
  takeTurn (nextTurn s) { s with schedule := s.schedule.tail }

/-- `s` with the instruction given to the block as the host's very next action (log entry 3). -/
def State.withFetchWord (s : State) (nbits w : Nat) : State := placeCommand nbits w s

end Sys2Proof.Machine
end

