-- ==== Sys2Proof/Machine/Script.lean ====
section
/-! DEFINITION. The host script notation: register names, lines and their expansions into host actions (30_encoding.md R42). -/

namespace Sys2Proof.Machine

/-- One line of a host script (30_encoding.md R42). A register operand is a number; `regNumber` gives the number of
a name. -/
inductive Line where
  | wr (r : Nat) (v : Word)
  | rd (r : Nat)
  | wrm (a : Nat) (v : Byte)
  | rdm (a : Nat)
  | reset
  | command (i : Instr)
  | wait
  | setTone (f d : Word)
  | ldHdr (bytes : Vector Byte 7)
  | ldData (bytes : List Byte)
  | clrErr
  | sendBytes (bytes : List Byte)
  deriving DecidableEq, Repr

/-- The register a name of the notation stands for, the header aliases FN0 to CKS included (30_encoding.md R42,
10_state.md R14); its number is `regNumber` of it. -/
def regOfName? : String → Option Reg
  | "CMD" => some .cmd
  | "STATUS" => some .status
  | "FREQ" => some .freq
  | "DUR" => some .dur
  | "DLEN" => some .dlen
  | "SEGI" => some .segi
  | "SN" => some .sn
  | "HDR0" | "FN0" => some (.hdr 0)
  | "HDR1" | "FN1" => some (.hdr 1)
  | "HDR2" | "SA0" => some (.hdr 2)
  | "HDR3" | "SA1" => some (.hdr 3)
  | "HDR4" | "EA0" => some (.hdr 4)
  | "HDR5" | "EA1" => some (.hdr 5)
  | "HDR6" | "CKS" => some (.hdr 6)
  | _ => none

/-- `WR reg, value`. -/
def writeAct (r : Nat) (v : Word) : HostAct := .txn (.regWrite r v)

/-- A command mnemonic: one `RegWrite(0x00, word)`. -/
def commandAct (i : Instr) : HostAct := writeAct 0x00 ((encode i).setWidth 32)

/-- The host actions of a line, in order (30_encoding.md R42). -/
def Line.expand : Line → List HostAct
  | .wr r v => [writeAct r v]
  | .rd r => [.txn (.regRead r)]
  | .wrm a v => [.txn (.memWrite a v)]
  | .rdm a => [.txn (.memRead a)]
  | .reset => [.reset]
  | .command i => [commandAct i]
  | .wait => [.wait]
  | .setTone f d => [writeAct 0x02 f, writeAct 0x03 d]
  | .ldHdr bytes => bytes.toList.zipIdx.map (fun p => writeAct (0x08 + p.2) (p.1.setWidth 32))
  | .ldData bytes =>
    bytes.zipIdx.map (fun p => HostAct.txn (.memWrite p.2 p.1)) ++ [writeAct 0x04 (BitVec.ofNat 32 bytes.length)]
  | .clrErr => [writeAct 0x01 0x00001F00#32]
  | .sendBytes bytes => bytes.flatMap (fun x => [commandAct (.byte x), .wait])

/-- The host actions of a script. -/
def scriptActs (ls : List Line) : List HostAct := ls.flatMap Line.expand

end Sys2Proof.Machine
end

