-- ==== Sys2Proof/Safety.lean ====
section
/-! DEFINITION. What counts as a state a run can be in (the invariant of 44_sequencer_and_stream.md R68 and the facts of 10_state.md R9, R15, R16, R18), and what a busy state still has to emit. -/

namespace Sys2Proof.Machine

/-- What holds of a busy state while operation `i` runs (44_sequencer_and_stream.md R68; 20_memory.md R30: the
operands that were checked at issue are frozen): CMD names `i`, its precondition holds, the current segment exists, is
not empty, and SN is inside it. -/
def runs (i : Instr) (s : State) : Prop :=
  decode s.cmd = .instr i ∧ operandsOk i s = true ∧ s.segi.toNat < nseg i s ∧
    s.sn.toNat < segLen (segAt i s s.segi.toNat).dur

/-- The invariant of the machine. DMEM keeps its canonical form and lists only addresses that exist (10_state.md R18);
CMD is 0x0000 or the word of an operation (R9); an idle block has SN = 0 (R16, R22); a busy block runs an operation. -/
def Inv (s : State) : Prop :=
  Memory.wf s.dmem ∧ (∀ c ∈ s.dmem, c.1 < s.params.dmemSize.val) ∧
    (s.cmd = 0x0000#16 ∨ ∃ i, decode s.cmd = .instr i) ∧
    (s.status.busy = false → s.sn = 0#32) ∧
    (s.status.busy = true → ∃ i, runs i s)

/-- The pairs a busy state has still to emit: the rest of the current segment from SN on, then the segments after it
(44_sequencer_and_stream.md R69, R73). Nothing when idle. -/
def remaining (s : State) : List OutPair :=
  if s.status.busy then
    match decode s.cmd with
    | .illegal _ => []
    | .instr i =>
      (mark (samples s.params.pol0 (segAt i s s.segi.toNat))).drop s.sn.toNat ++
        markedSegs s.params.pol0 ((segs i s).drop (s.segi.toNat + 1))
  else []

/-- The run of `n` steps of the machine. -/
def runFor (n : Nat) (s : State) : Host.Outcome State Fault Refusal := Host.Core.run core n s

end Sys2Proof.Machine
end

