-- ==== Sys2Proof/Certificates/Slice0/Obligations.lean ====
section
/-! DEFINITION. The statements about the model, each a Prop; none is proved here. -/

open Sys2Proof Sys2Proof.Machine

/-! ### Command words (30_encoding.md) -/

/-- 30_encoding.md R41: the decoder, with the fields as naturals, the seven encodings, and the two round trips, which the
spec marks as its own inference from R39 ("decode(encode(op)) = op for every operation"). -/
def Obligations.DecodeAndEncodeAgree : Prop :=
  (∀ i : Instr, i.wellFormed = true → decode (encode i) = .instr i) ∧
  (∀ (w : CmdWord) (i : Instr), decode w = .instr i → encode i = w) ∧
  (encode .tone = 0x0100#16 ∧ (∀ b : Bit, (encode (.bit b)).toNat = 0x0200 + b.toNat) ∧
    (∀ x : Byte, (encode (.byte x)).toNat = 0x0300 + x.toNat) ∧ encode .lead = 0x0400#16 ∧
    encode .mid = 0x0500#16 ∧ encode .trail = 0x0600#16 ∧ encode .frame = 0x0700#16) ∧
  (∀ w : CmdWord,
    instrOf? (decode w) =
      if w.toNat / 256 = 1 ∧ w.toNat % 256 = 0 then some .tone
      else if w.toNat / 256 = 2 ∧ w.toNat % 256 / 2 = 0 then some (.bit (BitVec.ofNat 1 (w.toNat % 2)))
      else if w.toNat / 256 = 3 then some (.byte (BitVec.ofNat 8 (w.toNat % 256)))
      else if w.toNat / 256 = 4 ∧ w.toNat % 256 = 0 then some .lead
      else if w.toNat / 256 = 5 ∧ w.toNat % 256 = 0 then some .mid
      else if w.toNat / 256 = 6 ∧ w.toNat % 256 = 0 then some .trail
      else if w.toNat / 256 = 7 ∧ w.toNat % 256 = 0 then some .frame
      else none)

/-- 30_encoding.md R39, R40: a word decodes to an operation exactly when it selects a row of the opcode map by match
and mask; it selects at most one, the row that bears the operation's mnemonic. -/
def Obligations.DecodingIsTheOpcodeMap : Prop :=
  ∀ w : CmdWord,
    ((∃ i, decode w = .instr i) ↔ ∃ r ∈ opcodeTable, w &&& r.mask = r.bits) ∧
    (∀ r ∈ opcodeTable, ∀ q ∈ opcodeTable, w &&& r.mask = r.bits → w &&& q.mask = q.bits → r = q) ∧
    (∀ i, decode w = .instr i → ∃ r ∈ opcodeTable, r.mnemonic = mnemonicOf i ∧ w &&& r.mask = r.bits)

/-- 95_test_vectors.md V-D1 to V-D9: words written out from the encodings decode as the spec says, illegal words are
refused, and a table word reads the same. The names of the reasons of a refusal, and `decodeTableWord`, are the model's own
(log entry 10). -/
def Obligations.SpecWordsDecode : Prop :=
  decode 0b0000000100000000#16 = .instr .tone ∧ decode 0b0000001000000001#16 = .instr (.bit 1#1) ∧
  decode 0b0000001110101010#16 = .instr (.byte 0xAA#8) ∧ decode 0b0000010000000000#16 = .instr .lead ∧
  decode 0b0000010100000000#16 = .instr .mid ∧ decode 0b0000011000000000#16 = .instr .trail ∧
  decode 0b0000011100000000#16 = .instr .frame ∧ decode 0x0000#16 = .illegal .reservedOpcode ∧
  decode 0x0101#16 = .illegal .immediateNotZero ∧ decode 0x0202#16 = .illegal .bitOperandTooWide ∧
  decode 0x0800#16 = .illegal .reservedOpcode ∧ decodeTableWord 16 0x0700 = some .frame

/-! ### The Tone Source (40_tone_source.md) -/

/-- 40_tone_source.md R43: the length of a segment. That the rounded quotient is `64 * d` is the spec's own inference
("64000 * d / 1000 = 64 * d"). -/
def Obligations.SegmentLengthIs64PerMillisecond : Prop :=
  (∀ d, segLen d * 1000 = Config.FS * d ∧ segLen d = 64 * d) ∧
  (∀ p f d, (samples p ⟨f, d⟩).length = segLen d) ∧
  (segLen 0 = 0 ∧ segLen 3 = 192 ∧ segLen 6 = 384 ∧ segLen 2000 = 128000 ∧ segLen 4000 = 256000) ∧
  (∀ s, segLen (toneDur s) ≤ 4194240)

/-- 40_tone_source.md R44: POL0 in the first half-cycle, its opposite in the second, and the reduced forms of the two
carriers. The half-open split is the spec's decision D8; the statement holds for both values of POL0. -/
def Obligations.SquareWaveHalves : Prop :=
  ∀ (p : Sign) (f k : Nat),
    (2 * (k * f % 64000) < 64000 → sq p f k = p) ∧
    (64000 ≤ 2 * (k * f % 64000) → sq p f k = p.flip) ∧
    (sq p 1000 k = if k % 64 < 32 then p else p.flip) ∧
    (sq p 2000 k = if k % 32 < 16 then p else p.flip)

/-- 40_tone_source.md R48, corner cases: a frequency acts modulo the sample rate. -/
def Obligations.FrequencyActsModuloTheSampleRate : Prop :=
  ∀ (p : Sign) (f k : Nat),
    sq p f k = sq p (f % 64000) k ∧ (f % 64000 = 0 → sq p f k = p) ∧ sq p 65535 k = sq p 1535 k ∧
    sq p 32000 k = if k % 2 = 0 then p else p.flip

/-- 40_tone_source.md R45, R47: every segment starts at phase 0, whatever preceded it: sample `k` of a segment is `sq(f, k)`
with `k` counted inside the segment, in a list of segments too, and the first sample is POL0 and alone bears the flag. -/
def Obligations.EverySegmentStartsAtPhaseZero : Prop :=
  ∀ (p : Sign) (before after : List Seg) (g : Seg) (k : Nat), k < 64 * g.dur →
    (markedSegs p (before ++ g :: after))[(markedSegs p before).length + k]? =
      some ⟨sq p g.freq k, decide (k = 0)⟩ ∧
    sq p g.freq 0 = p

/-- 40_tone_source.md R46, 70_reset_and_hazards.md R98, 44_sequencer_and_stream.md R71: every sample has magnitude AMP = 1/5,
its port code is +6553 or -6553, below a fifth of either full scale, which 6554 is not. -/
def Obligations.SampleMagnitudeIsAmp : Prop :=
  (∀ v : Sign, sampleValue v = (if v = .pos then 1 / 5 else -1 / 5)) ∧
  ((sampleCode .pos).toInt = 6553 ∧ (sampleCode .neg).toInt = -6553) ∧
  ((6553 : Rat) / 32767 ≤ Config.AMP ∧ (6553 : Rat) / 32768 ≤ Config.AMP ∧ Config.AMP < (6554 : Rat) / 32768)

/-! ### Bits, bytes and frames (41_bit_encoder.md, 42_byte_encoder.md, 43_frame_assembler.md) -/

/-- 41_bit_encoder.md R49: the two encodings, and their samples cycle by cycle. -/
def Obligations.BitEncodings : Prop :=
  encodeBit 0#1 = [⟨2000, 6⟩, ⟨1000, 3⟩] ∧ encodeBit 1#1 = [⟨2000, 3⟩, ⟨1000, 6⟩] ∧
  (∀ p : Sign,
    (encodeBit 0#1).map (samples p) =
      [(List.replicate 12 (List.replicate 16 p ++ List.replicate 16 p.flip)).flatten,
       (List.replicate 3 (List.replicate 32 p ++ List.replicate 32 p.flip)).flatten] ∧
    (encodeBit 1#1).map (samples p) =
      [(List.replicate 6 (List.replicate 16 p ++ List.replicate 16 p.flip)).flatten,
       (List.replicate 6 (List.replicate 32 p ++ List.replicate 32 p.flip)).flatten] ∧
    (∀ b : Bit, (markedSegs p (encodeBit b)).length = 576)) ∧
  (∀ b : Bit, ((encodeBit b).map (fun g => g.dur)).sum = 9)

/-- 41_bit_encoder.md R50: the high pulse comes first in both encodings, and the two are never sample-identical: the flags
differ first at index 192, the values first at index 208. -/
def Obligations.BitEncodingsDiffer : Prop :=
  (∀ b : Bit, (encodeBit b).map (fun g => g.freq) = [2000, 1000]) ∧
  ∀ p : Sign,
    (∀ k, k < 192 → (markedSegs p (encodeBit 0#1))[k]? = (markedSegs p (encodeBit 1#1))[k]?) ∧
    (markedSegs p (encodeBit 0#1))[192]? = some ⟨p, false⟩ ∧
    (markedSegs p (encodeBit 1#1))[192]? = some ⟨p, true⟩ ∧
    (∀ k, k < 208 → ((markedSegs p (encodeBit 0#1)).map (fun q => q.sample))[k]? =
      ((markedSegs p (encodeBit 1#1)).map (fun q => q.sample))[k]?) ∧
    (markedSegs p (encodeBit 0#1))[208]? = some ⟨p.flip, false⟩ ∧
    (markedSegs p (encodeBit 1#1))[208]? = some ⟨p, false⟩

/-- 42_byte_encoder.md R52: start bit 0, the data bits most significant first, stop bit 1; the same by slots. -/
def Obligations.ByteEncodingIsTenBits : Prop :=
  ∀ (x : Byte) (s : State),
    segs (.byte x) s = encodeByte x ∧
    encodeByte x = encodeBit 0#1
      ++ encodeBit (BitVec.ofBool (x.getLsbD 7)) ++ encodeBit (BitVec.ofBool (x.getLsbD 6))
      ++ encodeBit (BitVec.ofBool (x.getLsbD 5)) ++ encodeBit (BitVec.ofBool (x.getLsbD 4))
      ++ encodeBit (BitVec.ofBool (x.getLsbD 3)) ++ encodeBit (BitVec.ofBool (x.getLsbD 2))
      ++ encodeBit (BitVec.ofBool (x.getLsbD 1)) ++ encodeBit (BitVec.ofBool (x.getLsbD 0))
      ++ encodeBit 1#1 ∧
    encodeByte x = (List.range 10).flatMap (fun n => encodeBit (slot x n)) ∧
    slot x 0 = 0#1 ∧ (∀ n, 1 ≤ n → n ≤ 8 → slot x n = BitVec.ofBool (x.getLsbD (8 - n))) ∧ slot x 9 = 1#1

/-- 42_byte_encoder.md R53, which the spec marks as derived from R52 and R49: the structure of a byte encoding. -/
def Obligations.ByteEncodingStructure : Prop :=
  ∀ x : Byte,
    (encodeByte x).length = 20 ∧
    (∀ j, j < 20 → (encodeByte x)[j]? = some
      (if j % 2 = 0 then ⟨2000, if slot x (j / 2) = 0#1 then 6 else 3⟩
       else ⟨1000, if slot x (j / 2) = 0#1 then 3 else 6⟩)) ∧
    (∀ j, j < 20 → byteSeg x j =
      (if j % 2 = 0 then ⟨2000, if slot x (j / 2) = 0#1 then 6 else 3⟩
       else ⟨1000, if slot x (j / 2) = 0#1 then 3 else 6⟩)) ∧
    (encodeByte x).take 2 = [⟨2000, 6⟩, ⟨1000, 3⟩] ∧ (encodeByte x).drop 18 = [⟨2000, 3⟩, ⟨1000, 6⟩] ∧
    ((encodeByte x).map (fun g => g.dur)).sum = 90 ∧ ((encodeByte x).map (fun g => segLen g.dur)).sum = 5760 ∧
    (∀ j, j < 20 → (((encodeByte x).take j).map (fun g => segLen g.dur)).sum =
      576 * (j / 2) + if j % 2 = 0 then 0 else if slot x (j / 2) = 0#1 then 384 else 192) ∧
    (∀ (p : Sign) (j : Nat), j < 20 →
      (markedSegs p (encodeByte x))[576 * (j / 2) + if j % 2 = 0 then 0 else if slot x (j / 2) = 0#1 then 384 else 192]? =
        some ⟨p, true⟩)

/-- 42_byte_encoder.md R53: `encode_byte` is injective, and data bit 7 - n is read back from the duration of the first pulse
of slot n + 1. -/
def Obligations.ByteEncodingIsInjective : Prop :=
  (∀ x y : Byte, encodeByte x = encodeByte y → x = y) ∧
  ∀ (x : Byte) (n : Nat), n < 8 →
    x.getLsbD (7 - n) = ((encodeByte x)[2 * n + 2]?.map (fun g => g.dur) == some 3)

/-- 43_frame_assembler.md R60, which the spec marks as derived: the closed form of a frame's segments agrees with the list of R56. -/
def Obligations.FrameClosedFormAgrees : Prop :=
  ∀ (h : List Byte) (data : List Byte) (k : Nat), h.length = 7 → k < 143 + 20 * data.length →
    (frame h data)[k]? = some
      (if k = 0 then ⟨1000, 4000⟩
       else if k ≤ 140 then byteSeg (h.getD ((k - 1) / 20) 0#8) ((k - 1) % 20)
       else if k = 141 then ⟨2000, 2000⟩
       else if k ≤ 141 + 20 * data.length then byteSeg (data.getD ((k - 142) / 20) 0#8) ((k - 142) % 20)
       else ⟨2000, 2000⟩) ∧
    (frame h data)[k]? = some (frameSegAt h data.length (fun j => data.getD j 0#8) k)

/-- 43_frame_assembler.md R59: a frame begins with its one lead sync, has 143 + 20 L segments, none empty, each a whole number
of cycles, 552320 + 5760 L samples and 8630 + 90 L ms (the counts are the spec's own inference from R56). -/
def Obligations.FrameSizes : Prop :=
  ∀ (h : List Byte) (data : List Byte), h.length = 7 →
    (frame h data).head? = some ⟨1000, 4000⟩ ∧ (frame h data).count ⟨1000, 4000⟩ = 1 ∧
    (frame h data).length = 143 + 20 * data.length ∧
    (markedSegs .pos (frame h data)).length = 552320 + 5760 * data.length ∧
    ((frame h data).map (fun g => g.dur)).sum = 8630 + 90 * data.length ∧
    (∀ g ∈ frame h data, 0 < segLen g.dur ∧ g.freq * g.dur % 1000 = 0) ∧
    (data.length = 4 → (frame h data).length = 223)

/-! ### The stream of an operation (44_sequencer_and_stream.md) -/

/-- 44_sequencer_and_stream.md R66: the segment list, its length and its closed form agree, for every operation. -/
def Obligations.SegmentListsAgree : Prop :=
  ∀ (i : Instr) (s : State),
    (segs i s).length = nseg i s ∧ ∀ k, k < nseg i s → (segs i s)[k]? = some (segAt i s k)

/-- 44_sequencer_and_stream.md R75: how many pairs each operation emits, and how many bear the flag: one for each segment,
but for TONE with DUR = 0, which emits nothing. -/
def Obligations.StreamLengths : Prop :=
  ∀ s : State,
    (stream .tone s).length = 64 * s.dur.toNat ∧
    (∀ b, (stream (.bit b) s).length = 576) ∧ (∀ x, (stream (.byte x) s).length = 5760) ∧
    (stream .lead s).length = 256000 ∧ (stream .mid s).length = 128000 ∧ (stream .trail s).length = 128000 ∧
    (stream .frame s).length = 552320 + 5760 * s.dlen.toNat ∧
    (∀ i : Instr, (stream i s).length = stepsOf i s) ∧
    (∀ i : Instr, (i ≠ .tone ∨ s.dur ≠ 0#16) → (stream i s).countP (fun p => p.sos) = nseg i s) ∧
    (s.dur = 0#16 → stream .tone s = [])

/-- 00_scope.md R5: the samples of an operation are a function of its word, of POL0 and of the operand state its rule names,
and of nothing else. -/
def Obligations.StreamDependsOnOperandsOnly : Prop :=
  ∀ (i : Instr) (s t : State), s.params.pol0 = t.params.pol0 →
    (i = .tone → s.freq = t.freq ∧ s.dur = t.dur) →
    (i = .frame → s.hdr = t.hdr ∧ s.dlen = t.dlen ∧ ∀ a, a < s.dlen.toNat → dmemByte s a = dmemByte t a) →
    stream i s = stream i t

/-- 44_sequencer_and_stream.md R76: a FRAME emits what LEAD, the header bytes, MID, the data bytes and TRAIL emit one after
another. -/
def Obligations.FrameIsTheConcatenation : Prop :=
  ∀ s : State,
    stream .frame s = stream .lead s ++ (frameHeader s).flatMap (fun x => stream (.byte x) s) ++ stream .mid s
      ++ (frameData s).flatMap (fun x => stream (.byte x) s) ++ stream .trail s ∧
    stream .trail s = stream .mid s

/-! ### Issue: what each operation's command does (40 to 44) -/

/-- 40_tone_source.md R48: an idle TONE with FREQ not 0 is issued; with DUR = 0 it is complete at once, SEGI = 1. Nothing
else of the state changes. -/
def Obligations.ToneIssue : Prop :=
  ∀ s : State, s.status.busy = false → s.freq ≠ 0#16 →
    (s.dur ≠ 0#16 → exec .tone s =
      .next { s with cmd := 0x0100#16, segi := 0#32, sn := 0#32, status := { s.status with busy := true } }) ∧
    (s.dur = 0#16 → exec .tone s =
      .next { s with cmd := 0x0100#16, segi := 1#32, sn := 0#32, status := { s.status with busy := false } })

/-- 41_bit_encoder.md R51: an idle BIT is issued; nothing else of the state changes. -/
def Obligations.BitIssue : Prop :=
  ∀ (b : Bit) (s : State), s.status.busy = false →
    exec (.bit b) s =
      .next { s with cmd := 0x0200#16 + b.setWidth 16, segi := 0#32, sn := 0#32, status := { s.status with busy := true } }

/-- 42_byte_encoder.md R54: an idle BYTE is issued for every value; nothing else of the state changes. -/
def Obligations.ByteIssue : Prop :=
  ∀ (x : Byte) (s : State), s.status.busy = false →
    exec (.byte x) s =
      .next { s with cmd := 0x0300#16 + x.setWidth 16, segi := 0#32, sn := 0#32, status := { s.status with busy := true } }

/-- 43_frame_assembler.md R61, R62, R63: an idle LEAD, MID or TRAIL is issued; nothing else of the state changes. -/
def Obligations.SyncIssue : Prop :=
  ∀ s : State, s.status.busy = false →
    exec .lead s =
      .next { s with cmd := 0x0400#16, segi := 0#32, sn := 0#32, status := { s.status with busy := true } } ∧
    exec .mid s =
      .next { s with cmd := 0x0500#16, segi := 0#32, sn := 0#32, status := { s.status with busy := true } } ∧
    exec .trail s =
      .next { s with cmd := 0x0600#16, segi := 0#32, sn := 0#32, status := { s.status with busy := true } }

/-- 43_frame_assembler.md R64: an idle FRAME whose DLEN is at most DMEM_SIZE is issued; nothing else of the state
changes. -/
def Obligations.FrameIssue : Prop :=
  ∀ s : State, s.status.busy = false → s.dlen.toNat ≤ s.params.dmemSize.val →
    exec .frame s =
      .next { s with cmd := 0x0700#16, segi := 0#32, sn := 0#32, status := { s.status with busy := true } }

/-- The frame of all seven operations at issue: whatever a command does, it leaves the operand registers, every byte of
DMEM, OUT, the environment and the flags but E_BUSY and E_OPD as they were, and it writes CMD, SEGI and SN only when it is
accepted. -/
def Obligations.IssueFrame : Prop :=
  ∀ (i : Instr) (s t : State), exec i s = .next t →
    (t.params = s.params ∧ t.freq = s.freq ∧ t.dur = s.dur ∧ t.dlen = s.dlen ∧ t.hdr = s.hdr ∧
      (∀ a, dmemByte t a = dmemByte s a)) ∧
    (t.out = s.out ∧ t.reads = s.reads ∧ t.host = s.host ∧ t.schedule = s.schedule ∧ t.outReady = s.outReady) ∧
    (t.status.eIll = s.status.eIll ∧ t.status.eLock = s.status.eLock ∧ t.status.eAddr = s.status.eAddr) ∧
    ((t.cmd = encode i ∧ t.sn = 0#32 ∧ s.status.busy = false ∧ t.status.eBusy = s.status.eBusy ∧
        t.status.eOpd = s.status.eOpd) ∨
      (t.cmd = s.cmd ∧ t.segi = s.segi ∧ t.sn = s.sn ∧ t.status.busy = s.status.busy))

/-- 60_exceptions.md R81: E_OPD is raised at issue in exactly two cases, with no other effect. -/
def Obligations.OperandErrors : Prop :=
  ∀ s : State, s.status.busy = false →
    (s.freq = 0#16 → exec .tone s = .next { s with status := { s.status with eOpd := true } }) ∧
    (s.params.dmemSize.val < s.dlen.toNat →
      exec .frame s = .next { s with status := { s.status with eOpd := true } }) ∧
    (∀ i : Instr, (i ≠ .tone ∨ s.freq ≠ 0#16) → (i ≠ .frame ∨ s.dlen.toNat ≤ s.params.dmemSize.val) →
      ∃ t, exec i s = .next t ∧ t.status.eOpd = s.status.eOpd ∧ t.cmd = encode i)

/-- 60_exceptions.md R80: any command written while busy is refused with E_BUSY and with no other effect; the running
operation goes on undisturbed. -/
def Obligations.CommandWhileBusy : Prop :=
  ∀ (v : Word) (s : State), s.status.busy = true →
    regWrite 0x00 v s = .next { s with status := { s.status with eBusy := true } } ∧
    (∀ i : Instr, exec i s = .next { s with status := { s.status with eBusy := true } }) ∧
    remaining { s with status := { s.status with eBusy := true } } = remaining s

/-- 60_exceptions.md R79: a word that matches no row of the opcode map, written to CMD while idle, is refused with E_ILL and with
no other effect; the rule's four example words are such words. -/
def Obligations.IllegalCommand : Prop :=
  (∀ (v : Word) (s : State), s.status.busy = false →
    (∀ r ∈ opcodeTable, v.setWidth 16 &&& r.mask ≠ r.bits) →
    regWrite 0x00 v s = .next { s with status := { s.status with eIll := true } }) ∧
  (∀ w : CmdWord, w = 0x0000#16 ∨ w = 0x0202#16 ∨ w = 0x0401#16 ∨ w = 0x0800#16 →
    ∀ r ∈ opcodeTable, w &&& r.mask ≠ r.bits)

/-- 44_sequencer_and_stream.md R67: the command write, whole; bits 31 to 16 of the value do not count. -/
def Obligations.CommandWriteRule : Prop :=
  ∀ (v : Word) (s : State),
    regWrite 0x00 v s = .next
      (if s.status.busy = true then { s with status := { s.status with eBusy := true } }
       else match instrOf? (decode (BitVec.ofNat 16 (v.toNat % 65536))) with
         | none => { s with status := { s.status with eIll := true } }
         | some i =>
           if i = .tone ∧ s.freq = 0#16 then { s with status := { s.status with eOpd := true } }
           else if i = .frame ∧ s.params.dmemSize.val < s.dlen.toNat then
             { s with status := { s.status with eOpd := true } }
           else normalise i { s with cmd := BitVec.ofNat 16 (v.toNat % 65536), segi := 0#32, sn := 0#32 }) ∧
    (∀ t, regWrite 0x00 v s = .next t → t.out = s.out)

/-- 44_sequencer_and_stream.md R68: normalise moves SEGI past empty segments only, stops at the first segment that is not empty
or at the end, sets BUSY accordingly and changes nothing else; only TONE with DUR = 0 has an empty segment, and its command write ends idle. -/
def Obligations.NormaliseRule : Prop :=
  (∀ (i : Instr) (s : State), s.segi.toNat ≤ nseg i s → nseg i s < 2 ^ 32 →
    ∃ k : Nat, s.segi.toNat ≤ k ∧ k ≤ nseg i s ∧
      (∀ j, s.segi.toNat ≤ j → j < k → segLen (segAt i s j).dur = 0) ∧
      (k < nseg i s → 0 < segLen (segAt i s k).dur ∧ (s.sn = 0#32 → s.sn.toNat < segLen (segAt i s k).dur)) ∧
      normalise i s =
        { s with segi := BitVec.ofNat 32 k, status := { s.status with busy := decide (k < nseg i s) } }) ∧
  (∀ (i : Instr) (s : State) (k : Nat), k < nseg i s →
    (segLen (segAt i s k).dur = 0 ↔ i = .tone ∧ s.dur = 0#16)) ∧
  (∀ s : State, s.status.busy = false → s.freq ≠ 0#16 → s.dur = 0#16 →
    regWrite 0x00 0x00000100#32 s = .next { s with cmd := 0x0100#16, segi := 1#32, sn := 0#32 })

/-! ### The step and the stream (44_sequencer_and_stream.md) -/

/-- A step runs the decoded instruction: when the host's next turn writes a word of CMD that decodes to `i`, the step is
`exec i` of the state from which that turn and that action have been taken; `withFetchWord` places exactly such a step.
That the host's actions and the turns stand in the state is the model's choice, log entries 3, 4 and 12. -/
def Obligations.StepRunsTheDecodedInstruction : Prop :=
  (∀ (s : State) (v : Word) (rest : List HostAct) (i : Instr),
    nextTurn s = .host → s.host = .txn (.regWrite 0x00 v) :: rest → decode (v.setWidth 16) = .instr i →
    step s = exec i { s with host := rest, schedule := s.schedule.tail }) ∧
  (∀ (s : State) (w : Nat) (i : Instr), w < 65536 → decode (BitVec.ofNat 16 w) = .instr i →
    step (s.withFetchWord 16 w) = exec i s)

/-- 44_sequencer_and_stream.md R69: the step that transfers one sample, enabled exactly when BUSY = 1 and the sink is ready. That
the moments of the sink are scheduled turns, and what `schedule` and `outReady` hold afterwards, is the model's choice, log
entry 4. A transfer with no turn scheduled is in BusyBlockNeverStalls and OperationRunsToCompletion. -/
def Obligations.TransferRule : Prop :=
  ∀ (s : State) (rest : List Turn),
    (∀ i : Instr, s.schedule = .sink true :: rest → s.status.busy = true → decode s.cmd = .instr i →
      s.segi.toNat < nseg i s →
      step s = .next
        (if s.sn.toNat + 1 < segLen (segAt i s s.segi.toNat).dur then
          { s with
            schedule := rest, outReady := true, sn := s.sn + 1#32
            out := s.out ++ [⟨sq s.params.pol0 (segAt i s s.segi.toNat).freq s.sn.toNat, decide (s.sn.toNat = 0)⟩] }
         else normalise i
          { s with
            schedule := rest, outReady := true, segi := s.segi + 1#32, sn := 0#32
            out := s.out ++ [⟨sq s.params.pol0 (segAt i s s.segi.toNat).freq s.sn.toNat, decide (s.sn.toNat = 0)⟩] })) ∧
    (s.schedule = .sink true :: rest → s.status.busy = false →
      step s = .next { s with schedule := rest, outReady := true }) ∧
    (s.schedule = .sink false :: rest → step s = .next { s with schedule := rest, outReady := false })

/-- 44_sequencer_and_stream.md R75 for a sink that stays ready: from an idle state a command whose precondition holds is issued,
and after exactly its number of steps the block is idle again, OUT has grown by its stream, SEGI = nseg(op), SN = 0, and
nothing else has changed: no flag, no operand register, no byte. That no turn is scheduled, so that the ready sink takes
every turn of a busy block, is log entry 4. -/
def Obligations.OperationRunsToCompletion : Prop :=
  ∀ (i : Instr) (s : State), s.status.busy = false → operandsOk i s = true → s.schedule = [] → s.outReady = true →
    ∃ t, exec i s = .next t ∧ t.out = s.out ∧
      runFor (stepsOf i s) t = .next
        { s with
          cmd := encode i, segi := BitVec.ofNat 32 (nseg i s), sn := 0#32, out := s.out ++ stream i s
          status := { s.status with busy := false } }

/-- 44_sequencer_and_stream.md R75, R77 of 60_exceptions.md, R92 of 70_reset_and_hazards.md: whatever turn comes, a step of a busy
block keeps what OUT holds together with what is still to be emitted; only Reset cuts it short, and then OUT keeps what
it has. The turns are log entry 4. -/
def Obligations.PendingStreamIsConserved : Prop :=
  ∀ s t : State, Inv s → s.status.busy = true → step s = .next t →
    (t.out ++ remaining t = s.out ++ remaining s) ∨
    (nextTurn s = .host ∧ s.host.head? = some .reset ∧ t.out = s.out ∧ remaining t = [])

/-- 44_sequencer_and_stream.md R73: at issue the whole stream of the operation is still to be emitted. -/
def Obligations.AcceptedCommandOwesItsStream : Prop :=
  ∀ (i : Instr) (s : State), s.status.busy = false → operandsOk i s = true →
    ∃ t, exec i s = .next t ∧ t.out = s.out ∧ remaining t = stream i s

/-- 44_sequencer_and_stream.md R72, 10_state.md R17: with a ready sink a busy block always transfers: exactly the pair its port
shows is appended to OUT, and the position moves forward. -/
def Obligations.BusyBlockNeverStalls : Prop :=
  ∀ s : State, Inv s → s.status.busy = true → nextTurn s = .sink true →
    ∃ (t : State) (p : OutPair), step s = .next t ∧ t.out = s.out ++ [p] ∧
      sampleCode p.sample = outData s ∧ p.sos = outSos s ∧ outValid s = true ∧
      (s.segi.toNat < t.segi.toNat ∧ t.sn = 0#32 ∨ t.segi = s.segi ∧ t.sn.toNat = s.sn.toNat + 1)

/-- 10_state.md R20, 44_sequencer_and_stream.md R69: OUT is append-only, and only a transfer, a ready moment of the sink on a busy
block, appends to it, one pair; Reset does not touch it. -/
def Obligations.OutputOnlyByTransfers : Prop :=
  ∀ s t : State, step s = .next t →
    t.out = s.out ∨ (s.status.busy = true ∧ nextTurn s = .sink true ∧ ∃ p, t.out = s.out ++ [p])

/-- 00_scope.md R2, 10_state.md R20: no rule reads OUT. A step from the same state with another history appends the same
pairs and leaves everything else the same. -/
def Obligations.OutIsNeverRead : Prop :=
  ∀ (s t : State) (o : List OutPair), step s = .next t →
    ∃ d, t.out = s.out ++ d ∧ step { s with out := o } = .next { t with out := o ++ d }

/-- 10_state.md R19: while an operation runs the phase is `(SN * f) mod FS`; it starts at 0 in every segment and grows by the
frequency, modulo FS, at every step inside one. After the transfer that completes the operation the block is idle, where R19 gives
no phase; that it is 0 there is the model's choice, log entry 7. -/
def Obligations.PhaseAccumulator : Prop :=
  ∀ (i : Instr) (s t : State), Inv s → s.status.busy = true → decode s.cmd = .instr i →
    nextTurn s = .sink true → step s = .next t →
    phase s = s.sn.toNat * (segAt i s s.segi.toNat).freq % 64000 ∧
    (t.segi = s.segi → phase t = (phase s + (segAt i s s.segi.toNat).freq) % 64000) ∧
    (t.segi ≠ s.segi → phase t = 0)

/-- 44_sequencer_and_stream.md R71: the output port. Idle, all three signals are 0; busy, a valid sample is on offer: its code is
CODE_POS or CODE_NEG by the sign of `sq(f, SN)`, and the start flag is 1 exactly at SN = 0. A sink that is not ready
(a turn of log entry 4) changes none of the three. -/
def Obligations.OutputPort : Prop :=
  ∀ s : State, Inv s →
    (s.status.busy = false → outValid s = false ∧ outData s = 0x0000#16 ∧ outSos s = false) ∧
    (∀ i : Instr, s.status.busy = true → decode s.cmd = .instr i →
      outValid s = true ∧
      outData s = (if sq s.params.pol0 (segAt i s s.segi.toNat).freq s.sn.toNat = .pos then 0x1999#16 else 0xE667#16) ∧
      outSos s = decide (s.sn = 0#32)) ∧
    (∀ t, sinkTurn false s = .next t → outValid t = outValid s ∧ outData t = outData s ∧ outSos t = outSos s)

/-! ### The whole machine -/

/-- The invariant holds after reset. -/
def Obligations.ResetMeetsTheInvariant : Prop := Inv State.reset

/-- 44_sequencer_and_stream.md R68 and the facts of 10_state.md: every step keeps the invariant, from every state that meets it, whatever
turn comes. -/
def Obligations.EveryStepKeepsTheInvariant : Prop :=
  ∀ s t : State, Inv s → step s = .next t → Inv t

/-- 93_implementation_defined.md: the block has no undefined transition. From a state that meets the invariant every step answers
a next state: no fault, no refusal. -/
def Obligations.NoStepGoesWrong : Prop :=
  ∀ s : State, Inv s → ∃ t, step s = .next t

/-- 20_memory.md R30, R33: while busy, whatever step comes other than Reset, CMD, the operand registers, every byte of DMEM and the
parameters keep their values. -/
def Obligations.OperandsAreFrozenWhileBusy : Prop :=
  ∀ s t : State, s.status.busy = true → step s = .next t →
    (nextTurn s = .host ∧ s.host.head? = some .reset) ∨
    (t.cmd = s.cmd ∧ t.freq = s.freq ∧ t.dur = s.dur ∧ t.dlen = s.dlen ∧ t.hdr = s.hdr ∧ t.params = s.params ∧
      ∀ a, dmemByte t a = dmemByte s a)

/-- 10_state.md R10, R21: a set flag stays set until Reset or a STATUS write with a 1 in its bit. -/
def Obligations.FlagsAreSticky : Prop :=
  ∀ (s t : State) (f : Flag), step s = .next t → s.status.get f = true →
    t.status.get f = true ∨
    (nextTurn s = .host ∧ (s.host.head? = some .reset ∨
      ∃ v : Word, s.host.head? = some (.txn (.regWrite 0x01 v)) ∧ v.getLsbD f.bit = true))

/-- 10_state.md R10, 60_exceptions.md R86: no operation reads the flags. With other flags the same command and the same
transfer do the same to everything but the flags. -/
def Obligations.FlagsChangeNothing : Prop :=
  ∀ (i : Instr) (s : State) (st : Status), st.busy = s.status.busy →
    (∀ t, exec i s = .next t →
      ∃ st', st'.busy = t.status.busy ∧ exec i { s with status := st } = .next { t with status := st' }) ∧
    (∀ t, transfer s = .next t →
      ∃ st', st'.busy = t.status.busy ∧ transfer { s with status := st } = .next { t with status := st' })

/-- 44_sequencer_and_stream.md R76: commands whose preconditions hold, each followed by WAIT, run to the end when the sink is
ready, and OUT grows by their streams, one after another, with nothing in between. That no turn is scheduled is log entry 4. -/
def Obligations.CommandsCompose : Prop :=
  ∀ (ops : List Instr) (s : State), (∀ i ∈ ops, operandsOk i s = true) → s.status.busy = false →
    s.schedule = [] → s.outReady = true →
    s.host = ops.flatMap (fun i => Line.expand (.command i) ++ Line.expand .wait) →
    ∃ (n : Nat) (t : State), runFor n s = .next t ∧ t.status.busy = false ∧ t.host = [] ∧
      t.out = s.out ++ ops.flatMap (fun i => stream i s) ∧
      t.freq = s.freq ∧ t.dur = s.dur ∧ t.dlen = s.dlen ∧ t.hdr = s.hdr ∧ t.dmem = s.dmem ∧
      (∀ f, t.status.get f = s.status.get f)

/-! ### The host port (20_memory.md, 60_exceptions.md) -/

/-- 20_memory.md R25: the register map. -/
def Obligations.RegisterMap : Prop :=
  (∀ g : Reg, regOfNumber? (regNumber g) = some g) ∧
  (regNumber .cmd = 0 ∧ regNumber .status = 1 ∧ regNumber .freq = 2 ∧ regNumber .dur = 3 ∧ regNumber .dlen = 4 ∧
    regNumber .segi = 5 ∧ regNumber .sn = 6 ∧ ∀ i : Fin 7, regNumber (.hdr i) = 8 + i.val) ∧
  (∀ r : Nat, regOfNumber? r = none ↔ r = 0x07 ∨ r = 0x0F ∨ 0x10 ≤ r)

/-- 10_state.md R8, 20_memory.md R31: a read of an implemented register, idle or busy, returns the register zero-extended to 32 bits
and changes nothing else. The value returned stands in `reads`, log entry 5. -/
def Obligations.RegisterReads : Prop :=
  ∀ s : State,
    (∀ (r : Nat) (g : Reg), regOfNumber? r = some g →
      regRead r s = { s with reads := s.reads ++ [.reg (regValue g s)] }) ∧
    (regValue .cmd s).toNat = s.cmd.toNat ∧ regValue .status s = s.status.word ∧
    (regValue .freq s).toNat = s.freq.toNat ∧ (regValue .dur s).toNat = s.dur.toNat ∧ regValue .dlen s = s.dlen ∧
    regValue .segi s = s.segi ∧ regValue .sn s = s.sn ∧ ∀ i : Fin 7, (regValue (.hdr i) s).toNat = s.hdr[i].toNat

/-- 10_state.md R8, R11 to R14, 20_memory.md R28: an idle write to an operand register stores the low bits the register
implements, is read back so (FREQ, DUR, DLEN, each HDR[i]), and does nothing else. -/
def Obligations.OperandRegisterWrites : Prop :=
  ∀ (v : Word) (s : State), s.status.busy = false →
    regWrite 0x02 v s = .next { s with freq := BitVec.ofNat 16 (v.toNat % 65536) } ∧
    regWrite 0x03 v s = .next { s with dur := BitVec.ofNat 16 (v.toNat % 65536) } ∧
    regWrite 0x04 v s = .next { s with dlen := v } ∧
    (∀ i : Fin 7, ∃ t, regWrite (0x08 + i.val) v s = .next t ∧ t = { s with hdr := t.hdr } ∧
      t.hdr[i] = BitVec.ofNat 8 (v.toNat % 256) ∧ (∀ j : Fin 7, j ≠ i → t.hdr[j] = s.hdr[j]) ∧
      regValue (.hdr i) t = BitVec.ofNat 32 (v.toNat % 256)) ∧
    (∀ t, regWrite 0x02 v s = .next t → regValue .freq t = BitVec.ofNat 32 (v.toNat % 65536)) ∧
    (∀ t, regWrite 0x03 v s = .next t → regValue .dur t = BitVec.ofNat 32 (v.toNat % 65536)) ∧
    (∀ t, regWrite 0x04 v s = .next t → regValue .dlen t = v)

/-- 60_exceptions.md R82: while busy, a write to an operand register or to a valid DMEM address is refused with E_LOCK and with
no other effect; STATUS writes are exempt. Writes to the read-only SEGI and SN are ignored without a flag, idle or busy
(10_state.md R8, 60_exceptions.md R84 item 4). -/
def Obligations.OperandLock : Prop :=
  ∀ (v : Word) (s : State),
    (s.status.busy = true →
      (∀ r : Nat, (r = 0x02 ∨ r = 0x03 ∨ r = 0x04 ∨ (0x08 ≤ r ∧ r ≤ 0x0E)) →
        regWrite r v s = .next { s with status := { s.status with eLock := true } }) ∧
      (∀ (a : Nat) (x : Byte), a < s.params.dmemSize.val →
        memWrite a x s = { s with status := { s.status with eLock := true } }) ∧
      (∃ t, regWrite 0x01 v s = .next t ∧ t.status.eLock = (s.status.eLock && !v.getLsbD 11))) ∧
    regWrite 0x05 v s = .next s ∧ regWrite 0x06 v s = .next s

/-- 60_exceptions.md R83: an access to an address that does not exist, idle or busy, raises E_ADDR; a read returns 0, a write stores
nothing. With DMEM_SIZE = 0 every DMEM access does. The value returned stands in `reads`, log entry 5. -/
def Obligations.AddressErrors : Prop :=
  ∀ s : State,
    (∀ r : Nat, (r = 0x07 ∨ r = 0x0F ∨ 0x10 ≤ r) →
      regRead r s = { s with status := { s.status with eAddr := true }, reads := s.reads ++ [.reg 0#32] } ∧
      ∀ v : Word, regWrite r v s = .next { s with status := { s.status with eAddr := true } }) ∧
    (∀ a : Nat, (s.params.dmemSize.val ≤ a ∨ s.params.dmemSize.val = 0) →
      memRead a s = { s with status := { s.status with eAddr := true }, reads := s.reads ++ [.mem 0#8] } ∧
      ∀ x : Byte, memWrite a x s = { s with status := { s.status with eAddr := true } })

/-- 60_exceptions.md R86, 10_state.md R10: a STATUS write clears the flags whose bits are 1 and has no other effect, idle or busy;
CLRERR, 0x1F00, clears all five. -/
def Obligations.StatusWriteOneToClear : Prop :=
  ∀ (v : Word) (s : State),
    (∃ st : Status, regWrite 0x01 v s = .next { s with status := st } ∧ st.busy = s.status.busy ∧
      ∀ f : Flag, st.get f = if v.getLsbD f.bit = true then false else s.status.get f) ∧
    regWrite 0x01 0x00001F00#32 s = .next { s with status := { Status.clear with busy := s.status.busy } }

/-- 10_state.md R10, 60_exceptions.md R78: the STATUS word. BUSY is bit 0, E_ILL, E_BUSY, E_OPD, E_LOCK, E_ADDR are bits 8 to
12, every other bit reads 0. -/
def Obligations.StatusWordLayout : Prop :=
  (Flag.eIll.bit = 8 ∧ Flag.eBusy.bit = 9 ∧ Flag.eOpd.bit = 10 ∧ Flag.eLock.bit = 11 ∧ Flag.eAddr.bit = 12) ∧
  ∀ st : Status, st.word.getLsbD 0 = st.busy ∧ (∀ f : Flag, st.word.getLsbD f.bit = st.get f) ∧
    ∀ k : Nat, k ≠ 0 → (k < 8 ∨ 12 < k) → st.word.getLsbD k = false

/-- 60_exceptions.md R77, R84: a transaction raises at most one flag, and one that raises a flag changes nothing else but, for a
read, the value it returns (`reads`, log entry 5), which is 0. -/
def Obligations.OneFlagPerTransaction : Prop :=
  ∀ (x : Txn) (s t : State) (f : Flag), hostTxn x s = .next t → s.status.get f = false → t.status.get f = true →
    t = { s with status := s.status.raise f, reads := t.reads } ∧
    (∀ g : Flag, g ≠ f → t.status.get g = s.status.get g) ∧
    (t.reads = s.reads ∨ t.reads = s.reads ++ [.reg 0#32] ∨ t.reads = s.reads ++ [.mem 0#8])

/-- 20_memory.md R24, R33: an idle write to a DMEM address that exists stores the byte, leaves every other byte and everything
else as it was, and keeps the canonical form (log entry 1); a read returns the byte (`reads`, log entry 5) and changes nothing
else. -/
def Obligations.MemoryWriteAndRead : Prop :=
  ∀ (a : Nat) (v : Byte) (s : State), a < s.params.dmemSize.val →
    (s.status.busy = false →
      dmemByte (memWrite a v s) a = v ∧ (∀ b, b ≠ a → dmemByte (memWrite a v s) b = dmemByte s b) ∧
      memWrite a v s = { s with dmem := (memWrite a v s).dmem } ∧
      (Memory.wf s.dmem → Memory.wf (memWrite a v s).dmem)) ∧
    memRead a s = { s with reads := s.reads ++ [.mem (dmemByte s a)] }

/-- 10_state.md R22, 93_implementation_defined.md U5: a byte never written reads as its power-on content, which the spec does not
fix; it is the same at every read, and Reset and writes elsewhere keep it. Nothing is said of its value. -/
def Obligations.UnwrittenByteIsStable : Prop :=
  ∀ (a : Nat) (s : State), Memory.find? s.dmem a = none →
    dmemByte s a = Config.powerOnByte a ∧
    (∀ (b : Nat) (v : Byte), b ≠ a → dmemByte (memWrite b v s) a = Config.powerOnByte a) ∧
    dmemByte (resetEvent s) a = Config.powerOnByte a

/-- 70_reset_and_hazards.md R91, 10_state.md R22: the Reset event, from any state, idle or busy, and the machine after power-on. DMEM and,
by 70_reset_and_hazards.md R92, OUT are not changed. The block accepts commands at once; TONE alone then lacks its operand (R93).
That the action leaves the host's list in this step is log entry 12, and the free value of a byte at power-on log entry 1. -/
def Obligations.ResetValues : Prop :=
  (∀ (s : State) (rest : List HostAct), s.host = .reset :: rest →
    hostTurn s = .next
      { s with
        host := rest, cmd := 0x0000#16, status := Status.clear, freq := 0#16, dur := 0#16, dlen := 0#32
        hdr := Vector.replicate 7 0x00#8, segi := 0#32, sn := 0#32 }) ∧
  (∀ s : State,
    (resetEvent s).status.word = 0#32 ∧ outValid (resetEvent s) = false ∧ outSos (resetEvent s) = false ∧
    outData (resetEvent s) = 0x0000#16 ∧ phase (resetEvent s) = 0 ∧ remaining (resetEvent s) = [] ∧
    (resetEvent s).out = s.out ∧ ∀ a, dmemByte (resetEvent s) a = dmemByte s a) ∧
  (∀ (i : Instr) (s : State), (i = .tone → exec i (resetEvent s) = .next (raise .eOpd (resetEvent s))) ∧
    (i ≠ .tone → ∃ t, exec i (resetEvent s) = .next t ∧ t.cmd = encode i ∧ t.status.busy = true)) ∧
  (resetEvent State.reset = State.reset ∧ ∀ a, dmemByte State.reset a = Config.powerOnByte a)

/-- 30_encoding.md R42: the expansions of the script lines, and a poll of WAIT: it reads STATUS and stays pending exactly while the
block is busy. That WAIT is one pending action that polls once a turn (log entry 4), that it stays on the list while busy
(log entry 12) and that the value read is recorded in `reads` (log entry 5) is the model's choice. -/
def Obligations.HostScript : Prop :=
  (∀ (r a : Nat) (v : Word) (x : Byte),
    Line.expand (.wr r v) = [.txn (.regWrite r v)] ∧ Line.expand (.rd r) = [.txn (.regRead r)] ∧
    Line.expand (.wrm a x) = [.txn (.memWrite a x)] ∧ Line.expand (.rdm a) = [.txn (.memRead a)] ∧
    Line.expand .reset = [.reset]) ∧
  (∀ i : Instr, Line.expand (.command i) = [.txn (.regWrite 0x00 (BitVec.ofNat 32 (encode i).toNat))]) ∧
  (∀ f d : Word, Line.expand (.setTone f d) = Line.expand (.wr 0x02 f) ++ Line.expand (.wr 0x03 d)) ∧
  (∀ b0 b1 b2 b3 b4 b5 b6 : Byte, Line.expand (.ldHdr #v[b0, b1, b2, b3, b4, b5, b6]) =
    [.txn (.regWrite 0x08 (b0.setWidth 32)), .txn (.regWrite 0x09 (b1.setWidth 32)),
     .txn (.regWrite 0x0A (b2.setWidth 32)), .txn (.regWrite 0x0B (b3.setWidth 32)),
     .txn (.regWrite 0x0C (b4.setWidth 32)), .txn (.regWrite 0x0D (b5.setWidth 32)),
     .txn (.regWrite 0x0E (b6.setWidth 32))]) ∧
  (∀ xs : List Byte, (Line.expand (.ldData xs)).length = xs.length + 1 ∧
    (∀ (j : Nat) (h : j < xs.length), (Line.expand (.ldData xs))[j]? = some (.txn (.memWrite j xs[j]))) ∧
    (Line.expand (.ldData xs))[xs.length]? = some (.txn (.regWrite 0x04 (BitVec.ofNat 32 xs.length)))) ∧
  Line.expand .clrErr = [.txn (.regWrite 0x01 0x00001F00#32)] ∧
  (∀ (x : Byte) (xs : List Byte), Line.expand (.sendBytes []) = [] ∧
    Line.expand (.sendBytes (x :: xs)) = Line.expand (.command (.byte x)) ++ Line.expand .wait ++ Line.expand (.sendBytes xs)) ∧
  (∀ (s : State) (rest : List HostAct), s.host = .wait :: rest →
    hostTurn s = .next
      { s with
        reads := s.reads ++ [.reg s.status.word]
        host := if s.status.busy = true then .wait :: rest else rest })
end

