-- ==== Sys2Proof/Laws/Decode.lean ====
section
/-! SUPPORT. Laws of the command word's fields and of the decoder's arms (30_encoding.md R37, R41). -/

namespace Sys2Proof

/-- `opc` as a natural. -/
theorem opcField_toNat (w : CmdWord) : (opcField w).toNat = w.toNat / 256 := by
  have := w.isLt
  simp [opcField, BitVec.extractLsb'_toNat, Nat.shiftRight_eq_div_pow]
  omega

/-- `imm8` as a natural. -/
theorem immField_toNat (w : CmdWord) : (immField w).toNat = w.toNat % 256 := by
  simp [immField, BitVec.extractLsb'_toNat]

/-- Two words with the same fields are equal. -/
theorem word_ext_fields {v w : CmdWord} (ho : opcField v = opcField w) (hi : immField v = immField w) : v = w := by
  have h1 := congrArg BitVec.toNat ho
  have h2 := congrArg BitVec.toNat hi
  rw [opcField_toNat, opcField_toNat] at h1
  rw [immField_toNat, immField_toNat] at h2
  exact BitVec.eq_of_toNat_eq (by omega)

/-- `opc` and `imm8` of an operation's word. -/
theorem fields_encode_bit (b : Bit) :
    opcField (encode (.bit b)) = 0x02#8 ∧ immField (encode (.bit b)) = b.setWidth 8 := by
  have hb := b.isLt
  constructor <;> apply BitVec.eq_of_toNat_eq <;> simp [opcField_toNat, immField_toNat, encode] <;> omega

theorem fields_encode_byte (x : Byte) :
    opcField (encode (.byte x)) = 0x03#8 ∧ immField (encode (.byte x)) = x := by
  have hx := x.isLt
  constructor <;> apply BitVec.eq_of_toNat_eq <;> simp [opcField_toNat, immField_toNat, encode] <;> omega

theorem decodeNoImm_instr {i j : Instr} {imm : Byte} (h : decodeNoImm i imm = .instr j) : imm = 0x00#8 ∧ j = i := by
  unfold decodeNoImm at h
  split at h <;> simp_all

theorem decodeBit_instr {j : Instr} {imm : Byte} (h : decodeBit imm = .instr j) :
    imm.extractLsb' 1 7 = 0#7 ∧ j = .bit (imm.extractLsb' 0 1) := by
  unfold decodeBit at h
  split at h <;> simp_all

/-- What a word that decodes to an operation is, arm by arm (30_encoding.md R41). -/
theorem decode_instr_fields {w : CmdWord} {i : Instr} (h : decode w = .instr i) :
    (opcField w = 0x01#8 ∧ immField w = 0x00#8 ∧ i = .tone) ∨
    (opcField w = 0x02#8 ∧ (immField w).extractLsb' 1 7 = 0#7 ∧ i = .bit ((immField w).extractLsb' 0 1)) ∨
    (opcField w = 0x03#8 ∧ i = .byte (immField w)) ∨
    (opcField w = 0x04#8 ∧ immField w = 0x00#8 ∧ i = .lead) ∨
    (opcField w = 0x05#8 ∧ immField w = 0x00#8 ∧ i = .mid) ∨
    (opcField w = 0x06#8 ∧ immField w = 0x00#8 ∧ i = .trail) ∨
    (opcField w = 0x07#8 ∧ immField w = 0x00#8 ∧ i = .frame) := by
  unfold decode at h
  repeat' split at h
  all_goals first
    | (have := decodeNoImm_instr h; simp_all)
    | (have := decodeBit_instr h; simp_all)
    | simp_all

end Sys2Proof
end

