-- ==== Sys2Proof/Laws/State.lean ====
section
/-! SUPPORT. What each named update of the state leaves in each field, and what each update of STATUS leaves in BUSY and the flags. -/

namespace Sys2Proof.Machine

/-! ### raise -/

@[simp] theorem raise_params (f : Flag) (s : State) : (raise f s).params = s.params := rfl
@[simp] theorem raise_cmd (f : Flag) (s : State) : (raise f s).cmd = s.cmd := rfl
@[simp] theorem raise_status (f : Flag) (s : State) : (raise f s).status = s.status.raise f := rfl
@[simp] theorem raise_freq (f : Flag) (s : State) : (raise f s).freq = s.freq := rfl
@[simp] theorem raise_dur (f : Flag) (s : State) : (raise f s).dur = s.dur := rfl
@[simp] theorem raise_dlen (f : Flag) (s : State) : (raise f s).dlen = s.dlen := rfl
@[simp] theorem raise_hdr (f : Flag) (s : State) : (raise f s).hdr = s.hdr := rfl
@[simp] theorem raise_segi (f : Flag) (s : State) : (raise f s).segi = s.segi := rfl
@[simp] theorem raise_sn (f : Flag) (s : State) : (raise f s).sn = s.sn := rfl
@[simp] theorem raise_dmem (f : Flag) (s : State) : (raise f s).dmem = s.dmem := rfl
@[simp] theorem raise_out (f : Flag) (s : State) : (raise f s).out = s.out := rfl
@[simp] theorem raise_reads (f : Flag) (s : State) : (raise f s).reads = s.reads := rfl
@[simp] theorem raise_host (f : Flag) (s : State) : (raise f s).host = s.host := rfl
@[simp] theorem raise_schedule (f : Flag) (s : State) : (raise f s).schedule = s.schedule := rfl
@[simp] theorem raise_outReady (f : Flag) (s : State) : (raise f s).outReady = s.outReady := rfl

/-! ### clearFlags -/

@[simp] theorem clearFlags_params (v : Word) (s : State) : (clearFlags v s).params = s.params := rfl
@[simp] theorem clearFlags_cmd (v : Word) (s : State) : (clearFlags v s).cmd = s.cmd := rfl
@[simp] theorem clearFlags_status (v : Word) (s : State) : (clearFlags v s).status = s.status.writeOneToClear v := rfl
@[simp] theorem clearFlags_freq (v : Word) (s : State) : (clearFlags v s).freq = s.freq := rfl
@[simp] theorem clearFlags_dur (v : Word) (s : State) : (clearFlags v s).dur = s.dur := rfl
@[simp] theorem clearFlags_dlen (v : Word) (s : State) : (clearFlags v s).dlen = s.dlen := rfl
@[simp] theorem clearFlags_hdr (v : Word) (s : State) : (clearFlags v s).hdr = s.hdr := rfl
@[simp] theorem clearFlags_segi (v : Word) (s : State) : (clearFlags v s).segi = s.segi := rfl
@[simp] theorem clearFlags_sn (v : Word) (s : State) : (clearFlags v s).sn = s.sn := rfl
@[simp] theorem clearFlags_dmem (v : Word) (s : State) : (clearFlags v s).dmem = s.dmem := rfl
@[simp] theorem clearFlags_out (v : Word) (s : State) : (clearFlags v s).out = s.out := rfl
@[simp] theorem clearFlags_reads (v : Word) (s : State) : (clearFlags v s).reads = s.reads := rfl
@[simp] theorem clearFlags_host (v : Word) (s : State) : (clearFlags v s).host = s.host := rfl
@[simp] theorem clearFlags_schedule (v : Word) (s : State) : (clearFlags v s).schedule = s.schedule := rfl
@[simp] theorem clearFlags_outReady (v : Word) (s : State) : (clearFlags v s).outReady = s.outReady := rfl

/-! ### returnRead -/

@[simp] theorem returnRead_params (v : ReadValue) (s : State) : (returnRead v s).params = s.params := rfl
@[simp] theorem returnRead_cmd (v : ReadValue) (s : State) : (returnRead v s).cmd = s.cmd := rfl
@[simp] theorem returnRead_status (v : ReadValue) (s : State) : (returnRead v s).status = s.status := rfl
@[simp] theorem returnRead_freq (v : ReadValue) (s : State) : (returnRead v s).freq = s.freq := rfl
@[simp] theorem returnRead_dur (v : ReadValue) (s : State) : (returnRead v s).dur = s.dur := rfl
@[simp] theorem returnRead_dlen (v : ReadValue) (s : State) : (returnRead v s).dlen = s.dlen := rfl
@[simp] theorem returnRead_hdr (v : ReadValue) (s : State) : (returnRead v s).hdr = s.hdr := rfl
@[simp] theorem returnRead_segi (v : ReadValue) (s : State) : (returnRead v s).segi = s.segi := rfl
@[simp] theorem returnRead_sn (v : ReadValue) (s : State) : (returnRead v s).sn = s.sn := rfl
@[simp] theorem returnRead_dmem (v : ReadValue) (s : State) : (returnRead v s).dmem = s.dmem := rfl
@[simp] theorem returnRead_out (v : ReadValue) (s : State) : (returnRead v s).out = s.out := rfl
@[simp] theorem returnRead_reads (v : ReadValue) (s : State) : (returnRead v s).reads = s.reads ++ [v] := rfl
@[simp] theorem returnRead_host (v : ReadValue) (s : State) : (returnRead v s).host = s.host := rfl
@[simp] theorem returnRead_schedule (v : ReadValue) (s : State) : (returnRead v s).schedule = s.schedule := rfl
@[simp] theorem returnRead_outReady (v : ReadValue) (s : State) : (returnRead v s).outReady = s.outReady := rfl

/-! ### emit -/

@[simp] theorem emit_params (p : OutPair) (s : State) : (emit p s).params = s.params := rfl
@[simp] theorem emit_cmd (p : OutPair) (s : State) : (emit p s).cmd = s.cmd := rfl
@[simp] theorem emit_status (p : OutPair) (s : State) : (emit p s).status = s.status := rfl
@[simp] theorem emit_freq (p : OutPair) (s : State) : (emit p s).freq = s.freq := rfl
@[simp] theorem emit_dur (p : OutPair) (s : State) : (emit p s).dur = s.dur := rfl
@[simp] theorem emit_dlen (p : OutPair) (s : State) : (emit p s).dlen = s.dlen := rfl
@[simp] theorem emit_hdr (p : OutPair) (s : State) : (emit p s).hdr = s.hdr := rfl
@[simp] theorem emit_segi (p : OutPair) (s : State) : (emit p s).segi = s.segi := rfl
@[simp] theorem emit_sn (p : OutPair) (s : State) : (emit p s).sn = s.sn := rfl
@[simp] theorem emit_dmem (p : OutPair) (s : State) : (emit p s).dmem = s.dmem := rfl
@[simp] theorem emit_out (p : OutPair) (s : State) : (emit p s).out = s.out ++ [p] := rfl
@[simp] theorem emit_reads (p : OutPair) (s : State) : (emit p s).reads = s.reads := rfl
@[simp] theorem emit_host (p : OutPair) (s : State) : (emit p s).host = s.host := rfl
@[simp] theorem emit_schedule (p : OutPair) (s : State) : (emit p s).schedule = s.schedule := rfl
@[simp] theorem emit_outReady (p : OutPair) (s : State) : (emit p s).outReady = s.outReady := rfl

/-! ### storeByte -/

@[simp] theorem storeByte_params (a : Nat) (v : Byte) (s : State) : (storeByte a v s).params = s.params := rfl
@[simp] theorem storeByte_cmd (a : Nat) (v : Byte) (s : State) : (storeByte a v s).cmd = s.cmd := rfl
@[simp] theorem storeByte_status (a : Nat) (v : Byte) (s : State) : (storeByte a v s).status = s.status := rfl
@[simp] theorem storeByte_freq (a : Nat) (v : Byte) (s : State) : (storeByte a v s).freq = s.freq := rfl
@[simp] theorem storeByte_dur (a : Nat) (v : Byte) (s : State) : (storeByte a v s).dur = s.dur := rfl
@[simp] theorem storeByte_dlen (a : Nat) (v : Byte) (s : State) : (storeByte a v s).dlen = s.dlen := rfl
@[simp] theorem storeByte_hdr (a : Nat) (v : Byte) (s : State) : (storeByte a v s).hdr = s.hdr := rfl
@[simp] theorem storeByte_segi (a : Nat) (v : Byte) (s : State) : (storeByte a v s).segi = s.segi := rfl
@[simp] theorem storeByte_sn (a : Nat) (v : Byte) (s : State) : (storeByte a v s).sn = s.sn := rfl
@[simp] theorem storeByte_dmem (a : Nat) (v : Byte) (s : State) : (storeByte a v s).dmem = Memory.store s.dmem a v := rfl
@[simp] theorem storeByte_out (a : Nat) (v : Byte) (s : State) : (storeByte a v s).out = s.out := rfl
@[simp] theorem storeByte_reads (a : Nat) (v : Byte) (s : State) : (storeByte a v s).reads = s.reads := rfl
@[simp] theorem storeByte_host (a : Nat) (v : Byte) (s : State) : (storeByte a v s).host = s.host := rfl
@[simp] theorem storeByte_schedule (a : Nat) (v : Byte) (s : State) : (storeByte a v s).schedule = s.schedule := rfl
@[simp] theorem storeByte_outReady (a : Nat) (v : Byte) (s : State) : (storeByte a v s).outReady = s.outReady := rfl

/-! ### moveTo -/

@[simp] theorem moveTo_params (k n : Word) (s : State) : (moveTo k n s).params = s.params := rfl
@[simp] theorem moveTo_cmd (k n : Word) (s : State) : (moveTo k n s).cmd = s.cmd := rfl
@[simp] theorem moveTo_status (k n : Word) (s : State) : (moveTo k n s).status = s.status := rfl
@[simp] theorem moveTo_freq (k n : Word) (s : State) : (moveTo k n s).freq = s.freq := rfl
@[simp] theorem moveTo_dur (k n : Word) (s : State) : (moveTo k n s).dur = s.dur := rfl
@[simp] theorem moveTo_dlen (k n : Word) (s : State) : (moveTo k n s).dlen = s.dlen := rfl
@[simp] theorem moveTo_hdr (k n : Word) (s : State) : (moveTo k n s).hdr = s.hdr := rfl
@[simp] theorem moveTo_segi (k n : Word) (s : State) : (moveTo k n s).segi = k := rfl
@[simp] theorem moveTo_sn (k n : Word) (s : State) : (moveTo k n s).sn = n := rfl
@[simp] theorem moveTo_dmem (k n : Word) (s : State) : (moveTo k n s).dmem = s.dmem := rfl
@[simp] theorem moveTo_out (k n : Word) (s : State) : (moveTo k n s).out = s.out := rfl
@[simp] theorem moveTo_reads (k n : Word) (s : State) : (moveTo k n s).reads = s.reads := rfl
@[simp] theorem moveTo_host (k n : Word) (s : State) : (moveTo k n s).host = s.host := rfl
@[simp] theorem moveTo_schedule (k n : Word) (s : State) : (moveTo k n s).schedule = s.schedule := rfl
@[simp] theorem moveTo_outReady (k n : Word) (s : State) : (moveTo k n s).outReady = s.outReady := rfl

/-! ### setBusy -/

@[simp] theorem setBusy_params (b : Bool) (s : State) : (setBusy b s).params = s.params := rfl
@[simp] theorem setBusy_cmd (b : Bool) (s : State) : (setBusy b s).cmd = s.cmd := rfl
@[simp] theorem setBusy_status (b : Bool) (s : State) : (setBusy b s).status = s.status.setBusy b := rfl
@[simp] theorem setBusy_freq (b : Bool) (s : State) : (setBusy b s).freq = s.freq := rfl
@[simp] theorem setBusy_dur (b : Bool) (s : State) : (setBusy b s).dur = s.dur := rfl
@[simp] theorem setBusy_dlen (b : Bool) (s : State) : (setBusy b s).dlen = s.dlen := rfl
@[simp] theorem setBusy_hdr (b : Bool) (s : State) : (setBusy b s).hdr = s.hdr := rfl
@[simp] theorem setBusy_segi (b : Bool) (s : State) : (setBusy b s).segi = s.segi := rfl
@[simp] theorem setBusy_sn (b : Bool) (s : State) : (setBusy b s).sn = s.sn := rfl
@[simp] theorem setBusy_dmem (b : Bool) (s : State) : (setBusy b s).dmem = s.dmem := rfl
@[simp] theorem setBusy_out (b : Bool) (s : State) : (setBusy b s).out = s.out := rfl
@[simp] theorem setBusy_reads (b : Bool) (s : State) : (setBusy b s).reads = s.reads := rfl
@[simp] theorem setBusy_host (b : Bool) (s : State) : (setBusy b s).host = s.host := rfl
@[simp] theorem setBusy_schedule (b : Bool) (s : State) : (setBusy b s).schedule = s.schedule := rfl
@[simp] theorem setBusy_outReady (b : Bool) (s : State) : (setBusy b s).outReady = s.outReady := rfl

/-! ### latchCommand -/

@[simp] theorem latchCommand_params (w : CmdWord) (s : State) : (latchCommand w s).params = s.params := rfl
@[simp] theorem latchCommand_cmd (w : CmdWord) (s : State) : (latchCommand w s).cmd = w := rfl
@[simp] theorem latchCommand_status (w : CmdWord) (s : State) : (latchCommand w s).status = s.status := rfl
@[simp] theorem latchCommand_freq (w : CmdWord) (s : State) : (latchCommand w s).freq = s.freq := rfl
@[simp] theorem latchCommand_dur (w : CmdWord) (s : State) : (latchCommand w s).dur = s.dur := rfl
@[simp] theorem latchCommand_dlen (w : CmdWord) (s : State) : (latchCommand w s).dlen = s.dlen := rfl
@[simp] theorem latchCommand_hdr (w : CmdWord) (s : State) : (latchCommand w s).hdr = s.hdr := rfl
@[simp] theorem latchCommand_segi (w : CmdWord) (s : State) : (latchCommand w s).segi = s.segi := rfl
@[simp] theorem latchCommand_sn (w : CmdWord) (s : State) : (latchCommand w s).sn = s.sn := rfl
@[simp] theorem latchCommand_dmem (w : CmdWord) (s : State) : (latchCommand w s).dmem = s.dmem := rfl
@[simp] theorem latchCommand_out (w : CmdWord) (s : State) : (latchCommand w s).out = s.out := rfl
@[simp] theorem latchCommand_reads (w : CmdWord) (s : State) : (latchCommand w s).reads = s.reads := rfl
@[simp] theorem latchCommand_host (w : CmdWord) (s : State) : (latchCommand w s).host = s.host := rfl
@[simp] theorem latchCommand_schedule (w : CmdWord) (s : State) : (latchCommand w s).schedule = s.schedule := rfl
@[simp] theorem latchCommand_outReady (w : CmdWord) (s : State) : (latchCommand w s).outReady = s.outReady := rfl

/-! ### setFreq -/

@[simp] theorem setFreq_params (v : Word) (s : State) : (setFreq v s).params = s.params := rfl
@[simp] theorem setFreq_cmd (v : Word) (s : State) : (setFreq v s).cmd = s.cmd := rfl
@[simp] theorem setFreq_status (v : Word) (s : State) : (setFreq v s).status = s.status := rfl
@[simp] theorem setFreq_freq (v : Word) (s : State) : (setFreq v s).freq = v.setWidth 16 := rfl
@[simp] theorem setFreq_dur (v : Word) (s : State) : (setFreq v s).dur = s.dur := rfl
@[simp] theorem setFreq_dlen (v : Word) (s : State) : (setFreq v s).dlen = s.dlen := rfl
@[simp] theorem setFreq_hdr (v : Word) (s : State) : (setFreq v s).hdr = s.hdr := rfl
@[simp] theorem setFreq_segi (v : Word) (s : State) : (setFreq v s).segi = s.segi := rfl
@[simp] theorem setFreq_sn (v : Word) (s : State) : (setFreq v s).sn = s.sn := rfl
@[simp] theorem setFreq_dmem (v : Word) (s : State) : (setFreq v s).dmem = s.dmem := rfl
@[simp] theorem setFreq_out (v : Word) (s : State) : (setFreq v s).out = s.out := rfl
@[simp] theorem setFreq_reads (v : Word) (s : State) : (setFreq v s).reads = s.reads := rfl
@[simp] theorem setFreq_host (v : Word) (s : State) : (setFreq v s).host = s.host := rfl
@[simp] theorem setFreq_schedule (v : Word) (s : State) : (setFreq v s).schedule = s.schedule := rfl
@[simp] theorem setFreq_outReady (v : Word) (s : State) : (setFreq v s).outReady = s.outReady := rfl

/-! ### setDur -/

@[simp] theorem setDur_params (v : Word) (s : State) : (setDur v s).params = s.params := rfl
@[simp] theorem setDur_cmd (v : Word) (s : State) : (setDur v s).cmd = s.cmd := rfl
@[simp] theorem setDur_status (v : Word) (s : State) : (setDur v s).status = s.status := rfl
@[simp] theorem setDur_freq (v : Word) (s : State) : (setDur v s).freq = s.freq := rfl
@[simp] theorem setDur_dur (v : Word) (s : State) : (setDur v s).dur = v.setWidth 16 := rfl
@[simp] theorem setDur_dlen (v : Word) (s : State) : (setDur v s).dlen = s.dlen := rfl
@[simp] theorem setDur_hdr (v : Word) (s : State) : (setDur v s).hdr = s.hdr := rfl
@[simp] theorem setDur_segi (v : Word) (s : State) : (setDur v s).segi = s.segi := rfl
@[simp] theorem setDur_sn (v : Word) (s : State) : (setDur v s).sn = s.sn := rfl
@[simp] theorem setDur_dmem (v : Word) (s : State) : (setDur v s).dmem = s.dmem := rfl
@[simp] theorem setDur_out (v : Word) (s : State) : (setDur v s).out = s.out := rfl
@[simp] theorem setDur_reads (v : Word) (s : State) : (setDur v s).reads = s.reads := rfl
@[simp] theorem setDur_host (v : Word) (s : State) : (setDur v s).host = s.host := rfl
@[simp] theorem setDur_schedule (v : Word) (s : State) : (setDur v s).schedule = s.schedule := rfl
@[simp] theorem setDur_outReady (v : Word) (s : State) : (setDur v s).outReady = s.outReady := rfl

/-! ### setDlen -/

@[simp] theorem setDlen_params (v : Word) (s : State) : (setDlen v s).params = s.params := rfl
@[simp] theorem setDlen_cmd (v : Word) (s : State) : (setDlen v s).cmd = s.cmd := rfl
@[simp] theorem setDlen_status (v : Word) (s : State) : (setDlen v s).status = s.status := rfl
@[simp] theorem setDlen_freq (v : Word) (s : State) : (setDlen v s).freq = s.freq := rfl
@[simp] theorem setDlen_dur (v : Word) (s : State) : (setDlen v s).dur = s.dur := rfl
@[simp] theorem setDlen_dlen (v : Word) (s : State) : (setDlen v s).dlen = v := rfl
@[simp] theorem setDlen_hdr (v : Word) (s : State) : (setDlen v s).hdr = s.hdr := rfl
@[simp] theorem setDlen_segi (v : Word) (s : State) : (setDlen v s).segi = s.segi := rfl
@[simp] theorem setDlen_sn (v : Word) (s : State) : (setDlen v s).sn = s.sn := rfl
@[simp] theorem setDlen_dmem (v : Word) (s : State) : (setDlen v s).dmem = s.dmem := rfl
@[simp] theorem setDlen_out (v : Word) (s : State) : (setDlen v s).out = s.out := rfl
@[simp] theorem setDlen_reads (v : Word) (s : State) : (setDlen v s).reads = s.reads := rfl
@[simp] theorem setDlen_host (v : Word) (s : State) : (setDlen v s).host = s.host := rfl
@[simp] theorem setDlen_schedule (v : Word) (s : State) : (setDlen v s).schedule = s.schedule := rfl
@[simp] theorem setDlen_outReady (v : Word) (s : State) : (setDlen v s).outReady = s.outReady := rfl

/-! ### setHdr -/

@[simp] theorem setHdr_params (i : Fin 7) (v : Word) (s : State) : (setHdr i v s).params = s.params := rfl
@[simp] theorem setHdr_cmd (i : Fin 7) (v : Word) (s : State) : (setHdr i v s).cmd = s.cmd := rfl
@[simp] theorem setHdr_status (i : Fin 7) (v : Word) (s : State) : (setHdr i v s).status = s.status := rfl
@[simp] theorem setHdr_freq (i : Fin 7) (v : Word) (s : State) : (setHdr i v s).freq = s.freq := rfl
@[simp] theorem setHdr_dur (i : Fin 7) (v : Word) (s : State) : (setHdr i v s).dur = s.dur := rfl
@[simp] theorem setHdr_dlen (i : Fin 7) (v : Word) (s : State) : (setHdr i v s).dlen = s.dlen := rfl
@[simp] theorem setHdr_hdr (i : Fin 7) (v : Word) (s : State) : (setHdr i v s).hdr = s.hdr.set i.val (v.setWidth 8) i.isLt := rfl
@[simp] theorem setHdr_segi (i : Fin 7) (v : Word) (s : State) : (setHdr i v s).segi = s.segi := rfl
@[simp] theorem setHdr_sn (i : Fin 7) (v : Word) (s : State) : (setHdr i v s).sn = s.sn := rfl
@[simp] theorem setHdr_dmem (i : Fin 7) (v : Word) (s : State) : (setHdr i v s).dmem = s.dmem := rfl
@[simp] theorem setHdr_out (i : Fin 7) (v : Word) (s : State) : (setHdr i v s).out = s.out := rfl
@[simp] theorem setHdr_reads (i : Fin 7) (v : Word) (s : State) : (setHdr i v s).reads = s.reads := rfl
@[simp] theorem setHdr_host (i : Fin 7) (v : Word) (s : State) : (setHdr i v s).host = s.host := rfl
@[simp] theorem setHdr_schedule (i : Fin 7) (v : Word) (s : State) : (setHdr i v s).schedule = s.schedule := rfl
@[simp] theorem setHdr_outReady (i : Fin 7) (v : Word) (s : State) : (setHdr i v s).outReady = s.outReady := rfl

/-! ### resetEvent -/

@[simp] theorem resetEvent_params (s : State) : (resetEvent s).params = s.params := rfl
@[simp] theorem resetEvent_cmd (s : State) : (resetEvent s).cmd = 0x0000#16 := rfl
@[simp] theorem resetEvent_status (s : State) : (resetEvent s).status = Status.clear := rfl
@[simp] theorem resetEvent_freq (s : State) : (resetEvent s).freq = 0#16 := rfl
@[simp] theorem resetEvent_dur (s : State) : (resetEvent s).dur = 0#16 := rfl
@[simp] theorem resetEvent_dlen (s : State) : (resetEvent s).dlen = 0#32 := rfl
@[simp] theorem resetEvent_hdr (s : State) : (resetEvent s).hdr = Vector.replicate 7 0x00#8 := rfl
@[simp] theorem resetEvent_segi (s : State) : (resetEvent s).segi = 0#32 := rfl
@[simp] theorem resetEvent_sn (s : State) : (resetEvent s).sn = 0#32 := rfl
@[simp] theorem resetEvent_dmem (s : State) : (resetEvent s).dmem = s.dmem := rfl
@[simp] theorem resetEvent_out (s : State) : (resetEvent s).out = s.out := rfl
@[simp] theorem resetEvent_reads (s : State) : (resetEvent s).reads = s.reads := rfl
@[simp] theorem resetEvent_host (s : State) : (resetEvent s).host = s.host := rfl
@[simp] theorem resetEvent_schedule (s : State) : (resetEvent s).schedule = s.schedule := rfl
@[simp] theorem resetEvent_outReady (s : State) : (resetEvent s).outReady = s.outReady := rfl

/-! ### STATUS -/

@[simp] theorem raise_busy (st : Status) (f : Flag) : (st.raise f).busy = st.busy := by cases f <;> rfl

@[simp] theorem get_raise_same (st : Status) (f : Flag) : (st.raise f).get f = true := by cases f <;> rfl

theorem get_raise_other (st : Status) {f g : Flag} (h : f ≠ g) : (st.raise f).get g = st.get g := by
  cases f <;> cases g <;> first | rfl | exact absurd rfl h

@[simp] theorem setBusy_busy (st : Status) (b : Bool) : (st.setBusy b).busy = b := rfl

@[simp] theorem get_setBusy (st : Status) (b : Bool) (f : Flag) : (st.setBusy b).get f = st.get f := by
  cases f <;> rfl

@[simp] theorem setBusy_same (st : Status) : st.setBusy st.busy = st := rfl

@[simp] theorem writeOneToClear_busy (st : Status) (v : Word) : (st.writeOneToClear v).busy = st.busy := rfl

theorem get_writeOneToClear (st : Status) (v : Word) (f : Flag) :
    (st.writeOneToClear v).get f = (st.get f && !v.getLsbD f.bit) := by
  cases f <;> rfl

/-- A STATUS is its BUSY bit and its five flags. -/
theorem status_ext {a b : Status} (hb : a.busy = b.busy) (hf : ∀ f, a.get f = b.get f) : a = b := by
  have h1 := hf .eIll
  have h2 := hf .eBusy
  have h3 := hf .eOpd
  have h4 := hf .eLock
  have h5 := hf .eAddr
  cases a
  cases b
  simp_all [Status.get]

end Sys2Proof.Machine
end

