-- ==== Sys2Proof/Laws/Memory.lean ====
section
/-! SUPPORT. Laws of DMEM: a read after a write, every other byte left alone, the canonical form kept by every memory operation (10_state.md R18, 20_memory.md R33). -/

namespace Sys2Proof.Machine

theorem find_store_same (m : Memory) (a : Nat) (v : Byte) : Memory.find? (Memory.store m a v) a = some v := by
  induction m with
  | nil => simp [Memory.store, Memory.find?]
  | cons c rest ih =>
    rw [Memory.store]
    split
    · simp [Memory.find?]
    · split
      · simp [Memory.find?]
      · rename_i _ h
        rw [Memory.find?, if_neg (Ne.symm h), ih]

theorem find_store_other (m : Memory) {a b : Nat} (v : Byte) (h : b ≠ a) :
    Memory.find? (Memory.store m a v) b = Memory.find? m b := by
  induction m with
  | nil => simp [Memory.store, Memory.find?, Ne.symm h]
  | cons c rest ih =>
    rw [Memory.store]
    split
    · rw [Memory.find?, if_neg (Ne.symm h)]
    · split
      · rename_i hc
        rw [Memory.find?, if_neg (Ne.symm h), Memory.find?, if_neg (by rw [← hc]; exact Ne.symm h)]
      · rw [Memory.find?, Memory.find?, ih]

/-- The cells of a memory after a write: the written one, or one that was there. -/
theorem mem_store {m : Memory} {a : Nat} {v : Byte} {c : Host.Cell} (h : c ∈ Memory.store m a v) :
    c = (a, v) ∨ c ∈ m := by
  induction m with
  | nil => simpa [Memory.store] using h
  | cons d rest ih =>
    rw [Memory.store] at h
    split at h
    · simpa using h
    · split at h
      · rcases List.mem_cons.mp h with h | h
        · exact .inl h
        · exact .inr (List.mem_cons_of_mem _ h)
      · rcases List.mem_cons.mp h with h | h
        · exact .inr (h ▸ List.mem_cons_self)
        · rcases ih h with h | h
          · exact .inl h
          · exact .inr (List.mem_cons_of_mem _ h)

/-- A write keeps the canonical form. -/
theorem store_wf {m : Memory} (a : Nat) (v : Byte) (h : Memory.wf m) : Memory.wf (Memory.store m a v) := by
  refine ⟨?_, fun c _ => by simp [Memory.unlisted]⟩
  have hp := h.1
  clear h
  induction m with
  | nil => simp [Memory.store]
  | cons c rest ih =>
    rw [Memory.store]
    have hr := List.pairwise_cons.mp hp
    split
    · rename_i hlt
      refine List.pairwise_cons.mpr ⟨fun d hd => ?_, hp⟩
      rcases List.mem_cons.mp hd with rfl | hd
      · exact hlt
      · exact Nat.lt_trans hlt (hr.1 d hd)
    · split
      · rename_i heq
        exact List.pairwise_cons.mpr ⟨fun d hd => heq ▸ hr.1 d hd, hr.2⟩
      · rename_i hlt hne
        refine List.pairwise_cons.mpr ⟨fun d hd => ?_, ih hr.2⟩
        rcases mem_store hd with rfl | hd
        · show c.1 < a
          omega
        · exact hr.1 d hd

/-- Two memories in canonical form that hold the same written bytes are equal data. -/
theorem memory_ext {m n : Memory} (hm : Memory.wf m) (hn : Memory.wf n)
    (h : ∀ a, Memory.find? m a = Memory.find? n a) : m = n := by
  have below : ∀ {l : Memory} {a : Nat}, (∀ d ∈ l, a < d.1) → Memory.find? l a = none := by
    intro l a hl
    induction l with
    | nil => rfl
    | cons d rest ih =>
      have h1 := hl d List.mem_cons_self
      rw [Memory.find?, if_neg (by omega), ih (fun e he => hl e (List.mem_cons_of_mem _ he))]
  have hm1 := hm.1
  have hn1 := hn.1
  clear hm hn
  induction m generalizing n with
  | nil =>
    cases n with
    | nil => rfl
    | cons d rest => simpa [Memory.find?, Memory.unlisted] using h d.1
  | cons c rest ih =>
    cases n with
    | nil => simpa [Memory.find?, Memory.unlisted] using h c.1
    | cons d tail =>
      have hc := List.pairwise_cons.mp hm1
      have hd := List.pairwise_cons.mp hn1
      have key : c.1 = d.1 := by
        rcases Nat.lt_trichotomy c.1 d.1 with hlt | heq | hgt
        · have := h c.1
          rw [below (l := d :: tail) (fun e he => by
            rcases List.mem_cons.mp he with rfl | he
            · exact hlt
            · exact Nat.lt_trans hlt (hd.1 e he))] at this
          simp [Memory.find?] at this
        · exact heq
        · have := h d.1
          rw [below (l := c :: rest) (fun e he => by
            rcases List.mem_cons.mp he with rfl | he
            · exact hgt
            · exact Nat.lt_trans hgt (hc.1 e he))] at this
          simp [Memory.find?] at this
      have hv : c.2 = d.2 := by simpa [Memory.find?, key] using h c.1
      have ht : rest = tail := by
        refine ih (fun a => ?_) hc.2 hd.2
        by_cases ha : c.1 = a
        · rw [below (fun e he => ha ▸ hc.1 e he), below (fun e he => by rw [← ha, key]; exact hd.1 e he)]
        · have := h a
          rwa [Memory.find?, if_neg ha, Memory.find?, if_neg (by rw [← key]; exact ha)] at this
      rw [ht, show c = d from Prod.ext key hv]

@[simp] theorem dmemByte_storeByte_same (a : Nat) (v : Byte) (s : State) : dmemByte (storeByte a v s) a = v := by
  simp [dmemByte, find_store_same]

theorem dmemByte_storeByte_other {a b : Nat} (v : Byte) (s : State) (h : b ≠ a) :
    dmemByte (storeByte a v s) b = dmemByte s b := by
  simp [dmemByte, find_store_other _ _ h]

/-- DMEM is read through the memory alone. -/
theorem dmemByte_congr {s t : State} (h : t.dmem = s.dmem) (a : Nat) : dmemByte t a = dmemByte s a := by
  simp [dmemByte, h]

end Sys2Proof.Machine
end

