-- ==== Sys2Proof/Laws/Segments.lean ====
section
/-! SUPPORT. Laws of segments and of marked sample lists: lengths, elements, concatenation (40_tone_source.md R43, R47; 44_sequencer_and_stream.md R73). -/

namespace Sys2Proof.Machine

theorem segLen_eq (d : Nat) : segLen d = 64 * d := by
  unfold segLen Config.FS
  omega

@[simp] theorem samples_length (p : Sign) (g : Seg) : (samples p g).length = segLen g.dur := by
  simp [samples]

theorem samples_getElem? (p : Sign) (g : Seg) {k : Nat} (h : k < segLen g.dur) :
    (samples p g)[k]? = some (sq p g.freq k) := by
  simp [samples, h]

@[simp] theorem mark_length (l : List Sign) : (mark l).length = l.length := by
  cases l <;> simp [mark]

theorem mark_getElem? (l : List Sign) (k : Nat) :
    (mark l)[k]? = l[k]?.map (fun v => ⟨v, decide (k = 0)⟩) := by
  cases l with
  | nil => simp [mark]
  | cons v vs => cases k <;> simp [mark]

/-- Element `k` of a marked segment is the pair offered at SN = k. -/
theorem mark_samples_getElem? (p : Sign) (g : Seg) {k : Nat} (h : k < segLen g.dur) :
    (mark (samples p g))[k]? = some ⟨sq p g.freq k, decide (k = 0)⟩ := by
  rw [mark_getElem?, samples_getElem? p g h]
  rfl

@[simp] theorem markedSegs_nil (p : Sign) : markedSegs p [] = [] := rfl

@[simp] theorem markedSegs_cons (p : Sign) (g : Seg) (gs : List Seg) :
    markedSegs p (g :: gs) = mark (samples p g) ++ markedSegs p gs := by
  simp [markedSegs]

@[simp] theorem markedSegs_append (p : Sign) (gs hs : List Seg) :
    markedSegs p (gs ++ hs) = markedSegs p gs ++ markedSegs p hs := by
  simp [markedSegs]

/-- A list of segments emits the sum of their lengths. -/
theorem markedSegs_length (p : Sign) (gs : List Seg) :
    (markedSegs p gs).length = (gs.map (fun g => segLen g.dur)).sum := by
  induction gs with
  | nil => rfl
  | cons g gs ih => simp [ih]

/-- An empty segment emits nothing. -/
theorem mark_samples_empty (p : Sign) (g : Seg) (h : segLen g.dur = 0) : mark (samples p g) = [] := by
  simp [samples, h, mark]

/-- `SEGI` of a bit encoding names its two pulses. -/
theorem encodeBit_eq (b : Bit) : encodeBit b = [bitSeg b 0, bitSeg b 1] := by
  unfold encodeBit bitSeg
  by_cases h : b = 0#1 <;> simp [h]

@[simp] theorem encodeBit_length (b : Bit) : (encodeBit b).length = 2 := by simp [encodeBit_eq]

/-- The fixed segments are never empty (44_sequencer_and_stream.md R68). -/
theorem bitSeg_len_pos (b : Bit) (k : Nat) : 0 < segLen (bitSeg b k).dur := by
  rw [segLen_eq]
  unfold bitSeg Config.T_LONG Config.T_SHORT
  split <;> (dsimp only; split <;> omega)

theorem byteSeg_len_pos (x : Byte) (j : Nat) : 0 < segLen (byteSeg x j).dur := bitSeg_len_pos _ _

theorem frameSegAt_len_pos (h : List Byte) (len : Nat) (data : Nat → Byte) (k : Nat) :
    0 < segLen (frameSegAt h len data k).dur := by
  have hl : 0 < segLen leadSeg.dur := by decide
  have hm : 0 < segLen midSeg.dur := by decide
  have ht : 0 < segLen trailSeg.dur := by decide
  unfold frameSegAt
  repeat' split
  all_goals first
    | exact byteSeg_len_pos _ _
    | assumption

/-- Only TONE can hold an empty segment (44_sequencer_and_stream.md R68). -/
theorem segAt_len_pos {i : Instr} (hi : i ≠ .tone) (s : State) (k : Nat) : 0 < segLen (segAt i s k).dur := by
  cases i with
  | tone => exact absurd rfl hi
  | bit b => exact bitSeg_len_pos b k
  | byte x => exact byteSeg_len_pos x k
  | lead => exact (by decide : 0 < segLen leadSeg.dur)
  | mid => exact (by decide : 0 < segLen midSeg.dur)
  | trail => exact (by decide : 0 < segLen trailSeg.dur)
  | frame => exact frameSegAt_len_pos _ _ _ _

/-- The segment list and its closed form look at the operand state alone. -/
theorem segAt_congr {s t : State} (hf : t.freq = s.freq) (hd : t.dur = s.dur) (hl : t.dlen = s.dlen)
    (hh : t.hdr = s.hdr) (hm : t.dmem = s.dmem) (i : Instr) (k : Nat) : segAt i t k = segAt i s k := by
  cases i <;> simp [segAt, toneFreq, toneDur, frameHeader, frameCount, hf, hd, hl, hh]
  rw [show dmemByte t = dmemByte s from funext (dmemByte_congr hm)]

theorem segs_congr {s t : State} (hf : t.freq = s.freq) (hd : t.dur = s.dur) (hl : t.dlen = s.dlen)
    (hh : t.hdr = s.hdr) (hm : t.dmem = s.dmem) (i : Instr) : segs i t = segs i s := by
  cases i <;> simp [segs, toneFreq, toneDur, frameHeader, frameData, frameCount, hf, hd, hl, hh]
  rw [show dmemByte t = dmemByte s from funext (dmemByte_congr hm)]

theorem nseg_congr {s t : State} (hl : t.dlen = s.dlen) (i : Instr) : nseg i t = nseg i s := by
  cases i <;> simp [nseg, frameCount, hl]

/-- The preconditions as propositions (60_exceptions.md R81). -/
theorem operandsOk_tone (s : State) : operandsOk .tone s = true ↔ s.freq ≠ 0#16 := by
  simp [operandsOk, toneOperandsOk, toneFreq, BitVec.toNat_eq]

theorem operandsOk_frame (s : State) : operandsOk .frame s = true ↔ s.dlen.toNat ≤ s.params.dmemSize.val := by
  simp [operandsOk, frameOperandsOk, frameCount]

theorem operandsOk_congr {s t : State} (hf : t.freq = s.freq) (hl : t.dlen = s.dlen) (hp : t.params = s.params)
    (i : Instr) : operandsOk i t = operandsOk i s := by
  cases i <;> simp [operandsOk, toneOperandsOk, frameOperandsOk, toneFreq, frameCount, hf, hl, hp]

/-- An operation whose precondition holds has fewer than 2^32 segments (10_state.md R17). -/
theorem nseg_lt {i : Instr} {s : State} (h : operandsOk i s = true) : nseg i s < 2 ^ 32 := by
  cases i with
  | frame =>
    have h1 := s.params.dmemSize.isLt
    have h2 : frameCount s ≤ s.params.dmemSize.val := (operandsOk_frame s).mp h
    simp only [nseg]
    omega
  | _ => simp [nseg]

/-! ### Updates that leave the operand state alone leave the segments alone -/

@[simp] theorem segAt_raise (i : Instr) (f : Flag) (s : State) (k : Nat) :
    segAt i (raise f s) k = segAt i s k := segAt_congr rfl rfl rfl rfl rfl i k

@[simp] theorem segs_raise (i : Instr) (f : Flag) (s : State) : segs i (raise f s) = segs i s :=
  segs_congr rfl rfl rfl rfl rfl i

@[simp] theorem nseg_raise (i : Instr) (f : Flag) (s : State) : nseg i (raise f s) = nseg i s := nseg_congr rfl i

@[simp] theorem operandsOk_raise (i : Instr) (f : Flag) (s : State) : operandsOk i (raise f s) = operandsOk i s :=
  operandsOk_congr rfl rfl rfl i

@[simp] theorem segAt_clearFlags (i : Instr) (v : Word) (s : State) (k : Nat) :
    segAt i (clearFlags v s) k = segAt i s k := segAt_congr rfl rfl rfl rfl rfl i k

@[simp] theorem segs_clearFlags (i : Instr) (v : Word) (s : State) : segs i (clearFlags v s) = segs i s :=
  segs_congr rfl rfl rfl rfl rfl i

@[simp] theorem nseg_clearFlags (i : Instr) (v : Word) (s : State) : nseg i (clearFlags v s) = nseg i s := nseg_congr rfl i

@[simp] theorem operandsOk_clearFlags (i : Instr) (v : Word) (s : State) : operandsOk i (clearFlags v s) = operandsOk i s :=
  operandsOk_congr rfl rfl rfl i

@[simp] theorem segAt_returnRead (i : Instr) (v : ReadValue) (s : State) (k : Nat) :
    segAt i (returnRead v s) k = segAt i s k := segAt_congr rfl rfl rfl rfl rfl i k

@[simp] theorem segs_returnRead (i : Instr) (v : ReadValue) (s : State) : segs i (returnRead v s) = segs i s :=
  segs_congr rfl rfl rfl rfl rfl i

@[simp] theorem nseg_returnRead (i : Instr) (v : ReadValue) (s : State) : nseg i (returnRead v s) = nseg i s := nseg_congr rfl i

@[simp] theorem operandsOk_returnRead (i : Instr) (v : ReadValue) (s : State) : operandsOk i (returnRead v s) = operandsOk i s :=
  operandsOk_congr rfl rfl rfl i

@[simp] theorem segAt_emit (i : Instr) (p : OutPair) (s : State) (k : Nat) :
    segAt i (emit p s) k = segAt i s k := segAt_congr rfl rfl rfl rfl rfl i k

@[simp] theorem segs_emit (i : Instr) (p : OutPair) (s : State) : segs i (emit p s) = segs i s :=
  segs_congr rfl rfl rfl rfl rfl i

@[simp] theorem nseg_emit (i : Instr) (p : OutPair) (s : State) : nseg i (emit p s) = nseg i s := nseg_congr rfl i

@[simp] theorem operandsOk_emit (i : Instr) (p : OutPair) (s : State) : operandsOk i (emit p s) = operandsOk i s :=
  operandsOk_congr rfl rfl rfl i

@[simp] theorem segAt_moveTo (i : Instr) (m n : Word) (s : State) (k : Nat) :
    segAt i (moveTo m n s) k = segAt i s k := segAt_congr rfl rfl rfl rfl rfl i k

@[simp] theorem segs_moveTo (i : Instr) (m n : Word) (s : State) : segs i (moveTo m n s) = segs i s :=
  segs_congr rfl rfl rfl rfl rfl i

@[simp] theorem nseg_moveTo (i : Instr) (m n : Word) (s : State) : nseg i (moveTo m n s) = nseg i s := nseg_congr rfl i

@[simp] theorem operandsOk_moveTo (i : Instr) (m n : Word) (s : State) : operandsOk i (moveTo m n s) = operandsOk i s :=
  operandsOk_congr rfl rfl rfl i

@[simp] theorem segAt_setBusy (i : Instr) (b : Bool) (s : State) (k : Nat) :
    segAt i (setBusy b s) k = segAt i s k := segAt_congr rfl rfl rfl rfl rfl i k

@[simp] theorem segs_setBusy (i : Instr) (b : Bool) (s : State) : segs i (setBusy b s) = segs i s :=
  segs_congr rfl rfl rfl rfl rfl i

@[simp] theorem nseg_setBusy (i : Instr) (b : Bool) (s : State) : nseg i (setBusy b s) = nseg i s := nseg_congr rfl i

@[simp] theorem operandsOk_setBusy (i : Instr) (b : Bool) (s : State) : operandsOk i (setBusy b s) = operandsOk i s :=
  operandsOk_congr rfl rfl rfl i

@[simp] theorem segAt_latchCommand (i : Instr) (w : CmdWord) (s : State) (k : Nat) :
    segAt i (latchCommand w s) k = segAt i s k := segAt_congr rfl rfl rfl rfl rfl i k

@[simp] theorem segs_latchCommand (i : Instr) (w : CmdWord) (s : State) : segs i (latchCommand w s) = segs i s :=
  segs_congr rfl rfl rfl rfl rfl i

@[simp] theorem nseg_latchCommand (i : Instr) (w : CmdWord) (s : State) : nseg i (latchCommand w s) = nseg i s := nseg_congr rfl i

@[simp] theorem operandsOk_latchCommand (i : Instr) (w : CmdWord) (s : State) : operandsOk i (latchCommand w s) = operandsOk i s :=
  operandsOk_congr rfl rfl rfl i

end Sys2Proof.Machine
end

