-- ==== Sys2Proof/Laws/Sequencer.lean ====
section
/-! SUPPORT. Laws of the sequencer: what normalise, issue and a transfer can do (44_sequencer_and_stream.md R67 to R70). -/

namespace Sys2Proof.Machine

/-- Where the loop of `normalise` stops: past empty segments only, at a non-empty one or after `fuel` of them. -/
theorem skipEmpty_stops (i : Instr) (s : State) (fuel k : Nat) :
    k ≤ skipEmpty i s fuel k ∧ skipEmpty i s fuel k ≤ k + fuel ∧
      (∀ j, k ≤ j → j < skipEmpty i s fuel k → segLen (segAt i s j).dur = 0) ∧
      (skipEmpty i s fuel k < k + fuel → 0 < segLen (segAt i s (skipEmpty i s fuel k)).dur) := by
  induction fuel generalizing k with
  | zero => exact ⟨Nat.le_refl _, Nat.le_refl _, fun j h1 h2 => absurd h2 (by simp only [skipEmpty]; omega),
      fun h => absurd h (by simp [skipEmpty])⟩
  | succ n ih =>
    obtain ⟨h1, h2, h3, h4⟩ := ih (k + 1)
    rw [skipEmpty]
    split
    · rename_i he
      refine ⟨by omega, by omega, fun j hk hj => ?_, fun h => h4 (by omega)⟩
      rcases Nat.eq_or_lt_of_le hk with rfl | hk
      · exact he
      · exact h3 j hk hj
    · exact ⟨Nat.le_refl _, by omega, fun j a b => absurd b (by omega), fun _ => by omega⟩

/-- An operation without empty segments stays where it is. -/
theorem skipEmpty_stay {i : Instr} {s : State} {k : Nat} (h : segLen (segAt i s k).dur ≠ 0) (fuel : Nat) :
    skipEmpty i s fuel k = k := by
  cases fuel with
  | zero => rfl
  | succ n => rw [skipEmpty, if_neg h]

/-- The segment `normalise` stops at. -/
def stopAt (i : Instr) (s : State) : Nat := skipEmpty i s (nseg i s - s.segi.toNat) s.segi.toNat

theorem normalise_eq (i : Instr) (s : State) :
    normalise i s = setBusy (decide (stopAt i s < nseg i s)) { s with segi := BitVec.ofNat 32 (stopAt i s) } := rfl

/-- `normalise` at a segment that is not empty only sets BUSY. -/
theorem normalise_stay {i : Instr} {s : State} (h : segLen (segAt i s s.segi.toNat).dur ≠ 0) :
    normalise i s = setBusy (decide (s.segi.toNat < nseg i s)) s := by
  rw [normalise_eq, stopAt, skipEmpty_stay h]
  simp

/-- `normalise` writes SEGI and BUSY and nothing else. -/
theorem normalise_frame (i : Instr) (s : State) :
    ∃ k b, normalise i s = { s with segi := k, status := s.status.setBusy b } := ⟨_, _, rfl⟩

/-- What writing a legal command can do (44_sequencer_and_stream.md R67). -/
theorem issue_cases {i : Instr} {ok : Bool} {s : State} {r : Host.Outcome State Fault Refusal} (h : issue i ok s = r) :
    (s.status.busy = true ∧ r = .next (raise .eBusy s)) ∨
    (s.status.busy = false ∧ ok = true ∧ r = .next (accept i s)) ∨
    (s.status.busy = false ∧ ok = false ∧ r = .next (raise .eOpd s)) := by
  subst h
  unfold issue
  cases s.status.busy <;> cases ok <;> simp

/-- What a sink moment can do to the block (44_sequencer_and_stream.md R69): nothing while idle, a fault where there is
no current segment, or one pair of the current segment and the next position. -/
theorem transfer_cases {s : State} {r : Host.Outcome State Fault Refusal} (h : transfer s = r) :
    (s.status.busy = false ∧ r = .next s) ∨
    (s.status.busy = true ∧ currentSeg? s = none ∧ r = .fault .noCurrentSegment) ∨
    (∃ i, s.status.busy = true ∧ decode s.cmd = .instr i ∧ s.segi.toNat < nseg i s ∧
      r = .next (advance i (segAt i s s.segi.toNat) (emit (offered (segAt i s s.segi.toNat) s) s))) := by
  subst h
  unfold transfer currentSeg?
  split
  · rename_i hb
    split
    · rename_i hd
      exact .inr (.inl ⟨hb, rfl, rfl⟩)
    · rename_i i hd
      split
      · rename_i hn
        exact .inr (.inr ⟨i, hb, hd, hn, rfl⟩)
      · rename_i hn
        exact .inr (.inl ⟨hb, by simp, rfl⟩)
  · rename_i hb
    exact .inl ⟨by simpa using hb, rfl⟩

/-- What `advance` writes: SEGI, SN and BUSY, nothing else. -/
theorem advance_frame (i : Instr) (g : Seg) (s : State) :
    ∃ k n b, advance i g s = { s with segi := k, sn := n, status := s.status.setBusy b } := by
  unfold advance
  split
  · exact ⟨s.segi, s.sn + 1#32, s.status.busy, rfl⟩
  · obtain ⟨k, b, h⟩ := normalise_frame i (moveTo (s.segi + 1#32) 0#32 s)
    exact ⟨k, 0#32, b, by rw [h]; rfl⟩

end Sys2Proof.Machine
end

