-- ==== Sys2Proof/Laws/HostPort.lean ====
section
/-! SUPPORT. Laws of the host port and of a step: what each transaction, each turn and each step can do (20_memory.md R24 to R31, 60_exceptions.md R77, R84). -/

namespace Sys2Proof.Machine

/-- `exec` is the issue of the instruction with its own precondition. -/
theorem exec_eq_issue (i : Instr) (s : State) : exec i s = issue i (operandsOk i s) s := by
  cases i <;> rfl

/-- A register's number names it (20_memory.md R25). -/
@[simp] theorem regOfNumber_regNumber (g : Reg) : regOfNumber? (regNumber g) = some g := by
  cases g with
  | hdr i => revert i; decide
  | _ => rfl

/-- What a register read does. -/
theorem regRead_cases (r : Nat) (s : State) :
    (regOfNumber? r = none ∧ regRead r s = returnRead (.reg 0#32) (raise .eAddr s)) ∨
    (∃ g, regOfNumber? r = some g ∧ regRead r s = returnRead (.reg (regValue g s)) s) := by
  unfold regRead
  split <;> simp_all

/-- What a command write can do (44_sequencer_and_stream.md R67): it is refused with one flag, or it issues an operation. -/
theorem commandWrite_cases (v : Word) (s : State) :
    (∃ f, commandWrite v s = .next (raise f s) ∧ (f = .eBusy ∨ f = .eIll ∨ f = .eOpd)) ∨
    (∃ i, s.status.busy = false ∧ decode (v.setWidth 16) = .instr i ∧ operandsOk i s = true ∧
      commandWrite v s = .next (accept i s)) := by
  unfold commandWrite
  split
  · exact .inl ⟨.eBusy, rfl, .inl rfl⟩
  · rename_i hb
    split
    · exact .inl ⟨.eIll, rfl, .inr (.inl rfl)⟩
    · rename_i i hd
      rw [exec_eq_issue]
      rcases issue_cases (rfl : issue i (operandsOk i s) s = _) with ⟨h, _⟩ | ⟨h, ho, hr⟩ | ⟨h, _, hr⟩
      · exact absurd h hb
      · exact .inr ⟨i, h, hd, ho, hr⟩
      · exact .inl ⟨.eOpd, hr, .inr (.inr rfl)⟩

/-- A write to an operand register or to DMEM is refused, or made on an idle block. -/
theorem lockedWrite_cases (write : State → State) (s : State) :
    (s.status.busy = true ∧ lockedWrite write s = raise .eLock s) ∨
    (s.status.busy = false ∧ lockedWrite write s = write s) := by
  unfold lockedWrite
  cases s.status.busy <;> simp

/-- What a DMEM read does. -/
theorem memRead_cases (a : Nat) (s : State) :
    (a < s.params.dmemSize.val ∧ memRead a s = returnRead (.mem (dmemByte s a)) s) ∨
    (s.params.dmemSize.val ≤ a ∧ memRead a s = returnRead (.mem 0x00#8) (raise .eAddr s)) := by
  unfold memRead dmemHas
  by_cases h : a < s.params.dmemSize.val
  · exact .inl ⟨h, by simp [h]⟩
  · exact .inr ⟨by omega, by simp [h]⟩

/-- What a DMEM write does. -/
theorem memWrite_cases (a : Nat) (v : Byte) (s : State) :
    (s.params.dmemSize.val ≤ a ∧ memWrite a v s = raise .eAddr s) ∨
    (a < s.params.dmemSize.val ∧ s.status.busy = true ∧ memWrite a v s = raise .eLock s) ∨
    (a < s.params.dmemSize.val ∧ s.status.busy = false ∧ memWrite a v s = storeByte a v s) := by
  unfold memWrite dmemHas lockedWrite
  by_cases h : a < s.params.dmemSize.val
  · cases hb : s.status.busy
    · exact .inr (.inr ⟨h, rfl, by simp [h]⟩)
    · exact .inr (.inl ⟨h, rfl, by simp [h]⟩)
  · exact .inl ⟨by omega, by simp [h]⟩

/-- What a poll of WAIT does: a read of STATUS, after which the WAIT is done exactly when the block is idle. -/
theorem pollStatus_eq (rest : List HostAct) (s : State) :
    pollStatus rest s = returnRead (.reg s.status.word) (if s.status.busy then s else { s with host := rest }) := by
  have hbit : (s.status.word).getLsbD 0 = s.status.busy := by
    obtain ⟨b, f1, f2, f3, f4, f5⟩ := s.status
    revert b f1 f2 f3 f4 f5
    decide
  unfold pollStatus
  rw [show regValue .status s = s.status.word from rfl, hbit]
  cases s.status.busy <;> rfl

/-- What a host transaction can do (20_memory.md R24), a case for each of its effects. -/
theorem hostTxn_cases {t : Txn} {s : State} {r : Host.Outcome State Fault Refusal} (h : hostTxn t s = r) :
    (∃ f, r = .next (raise f s)) ∨
    (∃ f v, r = .next (returnRead v (raise f s))) ∨
    (∃ v, r = .next (returnRead v s)) ∨
    (r = .next s) ∨
    (∃ v, t = .regWrite 0x01 v ∧ r = .next (clearFlags v s)) ∨
    (∃ i v, t = .regWrite 0x00 v ∧ s.status.busy = false ∧ decode (v.setWidth 16) = .instr i ∧
      operandsOk i s = true ∧ r = .next (accept i s)) ∨
    (s.status.busy = false ∧ ((∃ v, r = .next (setFreq v s)) ∨ (∃ v, r = .next (setDur v s)) ∨
      (∃ v, r = .next (setDlen v s)) ∨ (∃ i v, r = .next (setHdr i v s)) ∨
      (∃ a v, a < s.params.dmemSize.val ∧ r = .next (storeByte a v s)))) := by
  subst h
  cases t with
  | regRead n =>
    rcases regRead_cases n s with ⟨_, h⟩ | ⟨g, _, h⟩
    · exact .inr (.inl ⟨_, _, by rw [hostTxn, h]⟩)
    · exact .inr (.inr (.inl ⟨_, by rw [hostTxn, h]⟩))
  | memRead a =>
    rcases memRead_cases a s with ⟨_, h⟩ | ⟨_, h⟩
    · exact .inr (.inr (.inl ⟨_, by rw [hostTxn, h]⟩))
    · exact .inr (.inl ⟨_, _, by rw [hostTxn, h]⟩)
  | memWrite a v =>
    rcases memWrite_cases a v s with ⟨_, h⟩ | ⟨_, _, h⟩ | ⟨ha, hb, h⟩
    · exact .inl ⟨_, by rw [hostTxn, h]⟩
    · exact .inl ⟨_, by rw [hostTxn, h]⟩
    · exact .inr (.inr (.inr (.inr (.inr (.inr ⟨hb, .inr (.inr (.inr (.inr ⟨a, v, ha, by rw [hostTxn, h]⟩)))⟩)))))
  | regWrite n v =>
    rw [hostTxn]
    unfold regWrite
    split
    · exact .inl ⟨_, rfl⟩
    · rename_i hn
      have hn0 : n = 0 := by
        unfold regOfNumber? at hn
        split at hn <;> simp_all
      rcases commandWrite_cases v s with ⟨f, h, _⟩ | ⟨i, hb, hd, ho, h⟩
      · exact .inl ⟨f, h⟩
      · exact .inr (.inr (.inr (.inr (.inr (.inl ⟨i, v, by rw [hn0], hb, hd, ho, h⟩)))))
    · rename_i hn
      have hn1 : n = 1 := by
        unfold regOfNumber? at hn
        split at hn <;> simp_all
      exact .inr (.inr (.inr (.inr (.inl ⟨v, by rw [hn1], rfl⟩))))
    · rcases lockedWrite_cases (setFreq v) s with ⟨_, h⟩ | ⟨hb, h⟩
      · exact .inl ⟨_, by rw [h]⟩
      · exact .inr (.inr (.inr (.inr (.inr (.inr ⟨hb, .inl ⟨v, by rw [h]⟩⟩)))))
    · rcases lockedWrite_cases (setDur v) s with ⟨_, h⟩ | ⟨hb, h⟩
      · exact .inl ⟨_, by rw [h]⟩
      · exact .inr (.inr (.inr (.inr (.inr (.inr ⟨hb, .inr (.inl ⟨v, by rw [h]⟩)⟩)))))
    · rcases lockedWrite_cases (setDlen v) s with ⟨_, h⟩ | ⟨hb, h⟩
      · exact .inl ⟨_, by rw [h]⟩
      · exact .inr (.inr (.inr (.inr (.inr (.inr ⟨hb, .inr (.inr (.inl ⟨v, by rw [h]⟩))⟩)))))
    · exact .inr (.inr (.inr (.inl rfl)))
    · exact .inr (.inr (.inr (.inl rfl)))
    · rename_i i _
      rcases lockedWrite_cases (setHdr i v) s with ⟨_, h⟩ | ⟨hb, h⟩
      · exact .inl ⟨_, by rw [h]⟩
      · exact .inr (.inr (.inr (.inr (.inr (.inr ⟨hb, .inr (.inr (.inr (.inl ⟨i, v, by rw [h]⟩)))⟩)))))

/-- What the host's turn does, by its next pending action. -/
theorem hostTurn_cases (s : State) :
    (s.host = [] ∧ hostTurn s = .next s) ∨
    (∃ t rest, s.host = .txn t :: rest ∧ hostTurn s = hostTxn t { s with host := rest }) ∨
    (∃ rest, s.host = .reset :: rest ∧ hostTurn s = .next (resetEvent { s with host := rest })) ∨
    (∃ rest, s.host = .wait :: rest ∧ hostTurn s = .next (pollStatus rest s)) := by
  unfold hostTurn
  split
  · rename_i h
    exact .inl ⟨h, rfl⟩
  · rename_i h
    exact .inr (.inl ⟨_, _, h, rfl⟩)
  · rename_i h
    exact .inr (.inr (.inl ⟨_, h, rfl⟩))
  · rename_i h
    exact .inr (.inr (.inr ⟨_, h, rfl⟩))

/-- What a step does: the host's turn, or a moment of the sink. -/
theorem step_cases (s : State) :
    (nextTurn s = .host ∧ step s = hostTurn { s with schedule := s.schedule.tail }) ∨
    (nextTurn s = .sink false ∧ step s = .next { s with schedule := s.schedule.tail, outReady := false }) ∨
    (nextTurn s = .sink true ∧ step s = transfer { s with schedule := s.schedule.tail, outReady := true }) := by
  unfold step
  cases h : nextTurn s with
  | host => exact .inl ⟨rfl, rfl⟩
  | sink b =>
    cases b
    · exact .inr (.inl ⟨rfl, rfl⟩)
    · exact .inr (.inr ⟨rfl, rfl⟩)

end Sys2Proof.Machine
end

