-- ==== Sys2Proof/Laws/PerInstr.lean ====
section
/-! SUPPORT. Facts about every instruction as syntax, one lemma per constructor. -/

namespace Sys2Proof.Laws.TableRow

/-- The word of `i` selects the row of the opcode map that bears its mnemonic (30_encoding.md R39). -/
def Statement (i : Instr) : Prop :=
  ∃ r ∈ opcodeTable, r.mnemonic = mnemonicOf i ∧ encode i &&& r.mask = r.bits

theorem tone : Statement .tone := ⟨⟨"TONE", 0x0100#16, 0xFFFF#16⟩, by decide, rfl, by decide⟩

theorem bit (b : Bit) : Statement (.bit b) :=
  ⟨⟨"BIT", 0x0200#16, 0xFFFE#16⟩, by decide, rfl, by revert b; decide⟩

theorem byte (x : Byte) : Statement (.byte x) := by
  refine ⟨⟨"BYTE", 0x0300#16, 0xFF00#16⟩, by decide, rfl, ?_⟩
  revert x
  decide +kernel

theorem lead : Statement .lead := ⟨⟨"LEAD", 0x0400#16, 0xFFFF#16⟩, by decide, rfl, by decide⟩

theorem mid : Statement .mid := ⟨⟨"MID", 0x0500#16, 0xFFFF#16⟩, by decide, rfl, by decide⟩

theorem trail : Statement .trail := ⟨⟨"TRAIL", 0x0600#16, 0xFFFF#16⟩, by decide, rfl, by decide⟩

theorem frame : Statement .frame := ⟨⟨"FRAME", 0x0700#16, 0xFFFF#16⟩, by decide, rfl, by decide⟩

end Sys2Proof.Laws.TableRow
end

