-- ==== Sys2Proof/Laws/Run.lean ====
section
/-! SUPPORT. Laws of a run of several steps. -/

namespace Sys2Proof.Machine

@[simp] theorem runFor_zero (s : State) : runFor 0 s = .next s := rfl

/-- A run of any machine, by the outcome of its first step. -/
theorem core_run_succ (M : Host.Core) (k : Nat) (s : M.State) :
    (∀ t, M.step s = .next t → M.run (k + 1) s = M.run k t) ∧
    (∀ r, M.step s = .fault r → M.run (k + 1) s = .fault r) ∧
    (∀ r, M.step s = .refused r → M.run (k + 1) s = .refused r) := by
  refine ⟨fun t h => ?_, fun r h => ?_, fun r h => ?_⟩ <;> simp only [Host.Core.run, h]

theorem runFor_succ_next {s t : State} (h : step s = .next t) (n : Nat) : runFor (n + 1) s = runFor n t :=
  (core_run_succ core n s).1 t h

/-- Runs compose. -/
theorem runFor_add {s t : State} {m : Nat} (h : runFor m s = .next t) (n : Nat) : runFor (m + n) s = runFor n t := by
  induction m generalizing s with
  | zero =>
    cases h
    rw [Nat.zero_add]
  | succ m ih =>
    cases hs : step s with
    | next u =>
      rw [runFor_succ_next hs] at h
      rw [show m + 1 + n = m + n + 1 by omega, runFor_succ_next hs]
      exact ih h
    | fault r =>
      have := (core_run_succ core m s).2.1 r hs
      rw [show runFor (m + 1) s = .fault r from this] at h
      cases h
    | refused r =>
      have := (core_run_succ core m s).2.2 r hs
      rw [show runFor (m + 1) s = .refused r from this] at h
      cases h

/-- With no turn scheduled and a ready sink, a busy block transfers. -/
theorem step_transfers {s : State} (hs : s.schedule = []) (hr : s.outReady = true) (hb : s.status.busy = true) :
    step s = transfer s := by
  have hn : nextTurn s = .sink true := by simp [nextTurn, hs, hr, hb]
  have he : ({ s with schedule := s.schedule.tail, outReady := true } : State) = s := by
    rw [hs, List.tail_nil, ← hs, ← hr]
  unfold step
  rw [hn]
  simp only [takeTurn, sinkTurn, if_true, he]

/-- With no turn scheduled, an idle block leaves the turn to the host. -/
theorem step_host_idle {s : State} (hs : s.schedule = []) (hb : s.status.busy = false) : step s = hostTurn s := by
  have hn : nextTurn s = .host := by simp [nextTurn, hs, hb]
  have he : ({ s with schedule := s.schedule.tail } : State) = s := by rw [hs, List.tail_nil, ← hs]
  unfold step
  rw [hn]
  simp only [takeTurn, he]

end Sys2Proof.Machine
end

