-- ==== Sys2Proof/Tests/Slice0.lean ====
section
/-! SUPPORT. The model's own tests: words written out from the encodings, one-step tests whose expected values are those of 95_test_vectors.md, and for every obligation that has hypotheses a concrete witness that meets them. -/

namespace Sys2Proof.Tests

open Sys2Proof Sys2Proof.Machine

/-! ### Helpers -/

/-- The next state of an outcome, none for a stop. -/
def nextOf (r : Host.Outcome State Fault Refusal) : Option State :=
  match r with
  | .next t => some t
  | .fault _ => none
  | .refused _ => none

/-- `CMD, STATUS, SEGI, SN, |OUT|`, as the vectors of 95_test_vectors.md write a state. -/
structure View where
  cmd    : CmdWord
  status : Word
  segi   : Nat
  sn     : Nat
  outLen : Nat
  deriving DecidableEq, Repr

def viewOf (s : State) : View := ⟨s.cmd, s.status.word, s.segi.toNat, s.sn.toNat, s.out.length⟩

/-- The view of the next state. -/
def seen (r : Host.Outcome State Fault Refusal) : Option View := (nextOf r).map viewOf

/-- The reset state with a tone loaded. -/
def loaded (f d : BitVec 16) : State := { State.reset with freq := f, dur := d }

/-- The operation of word `w` under way, at segment `k`, sample `n`. -/
def running (w : CmdWord) (k n : Word) (s : State) : State :=
  { s with cmd := w, segi := k, sn := n, status := { Status.clear with busy := true } }

/-- The header and payload of the example frame (95_test_vectors.md S5), loaded. -/
def example4 : State :=
  { State.reset with
    hdr  := #v[0xAA#8, 0xFF#8, 0x00#8, 0x20#8, 0x03#8, 0x20#8, 0x06#8]
    dlen := 4#32
    dmem := [(0, 0x00#8), (1, 0x01#8), (2, 0x02#8), (3, 0x03#8)] }

/-! ### Decoding: words written bit by bit from the spec's encodings (30_encoding.md R37 to R41) -/

theorem test_decode_tone : decode 0b0000000100000000#16 = .instr .tone := by decide
theorem test_decode_bit0 : decode 0b0000001000000000#16 = .instr (.bit 0#1) := by decide
theorem test_decode_bit1 : decode 0b0000001000000001#16 = .instr (.bit 1#1) := by decide
theorem test_decode_byte_00 : decode 0b0000001100000000#16 = .instr (.byte 0x00#8) := by decide
theorem test_decode_byte_AA : decode 0b0000001110101010#16 = .instr (.byte 0b10101010#8) := by decide
theorem test_decode_byte_80 : decode 0b0000001110000000#16 = .instr (.byte 0b10000000#8) := by decide
theorem test_decode_lead : decode 0b0000010000000000#16 = .instr .lead := by decide
theorem test_decode_mid : decode 0b0000010100000000#16 = .instr .mid := by decide
theorem test_decode_trail : decode 0b0000011000000000#16 = .instr .trail := by decide
theorem test_decode_frame : decode 0b0000011100000000#16 = .instr .frame := by decide

/-- Illegal words, each reason of R40 at the edges of its range. -/
theorem test_decode_reserved_opcodes :
    decode 0x0000#16 = .illegal .reservedOpcode ∧ decode 0x00FF#16 = .illegal .reservedOpcode ∧
    decode 0x0800#16 = .illegal .reservedOpcode ∧ decode 0xFFFF#16 = .illegal .reservedOpcode := by decide

theorem test_decode_immediate_not_zero :
    decode 0x0101#16 = .illegal .immediateNotZero ∧ decode 0x0401#16 = .illegal .immediateNotZero ∧
    decode 0x0580#16 = .illegal .immediateNotZero ∧ decode 0x0610#16 = .illegal .immediateNotZero ∧
    decode 0x07FF#16 = .illegal .immediateNotZero := by decide

theorem test_decode_bit_too_wide :
    decode 0x0202#16 = .illegal .bitOperandTooWide ∧ decode 0x0203#16 = .illegal .bitOperandTooWide ∧
    decode 0x0280#16 = .illegal .bitOperandTooWide := by decide

/-- The table's words, as the table numbers their bits; a word with a bit above the operand is no row. -/
theorem test_decode_table_words :
    decodeTableWord 16 0x0100 = some .tone ∧ decodeTableWord 16 0x0201 = some (.bit 1#1) ∧
    decodeTableWord 16 0x03FF = some (.byte 0xFF#8) ∧ decodeTableWord 16 0x0400 = some .lead ∧
    decodeTableWord 16 0x0500 = some .mid ∧ decodeTableWord 16 0x0600 = some .trail ∧
    decodeTableWord 16 0x0700 = some .frame ∧ decodeTableWord 16 0x0202 = none := by decide

/-- WellFormed smoke. No term of Instr is ill-formed (the operands have the width of their fields), so there is no term for
the check to refuse: both ends of each operand's range are well-formed, and what the spec refuses are the words above. -/
theorem test_wellFormed :
    (Instr.bit 0#1).wellFormed = true ∧ (Instr.bit 1#1).wellFormed = true ∧ (Instr.byte 0x00#8).wellFormed = true ∧
    (Instr.byte 0xFF#8).wellFormed = true ∧ Instr.tone.wellFormed = true ∧ Instr.lead.wellFormed = true ∧
    Instr.mid.wellFormed = true ∧ Instr.trail.wellFormed = true ∧ Instr.frame.wellFormed = true := by decide

/-- No two rows of the opcode map select one word: the codes of any two differ in a bit both masks look at. -/
theorem test_opcode_rows_disjoint :
    opcodeTable.Pairwise (fun r q => (r.bits ^^^ q.bits) &&& r.mask &&& q.mask ≠ 0#16) := by decide

/-! ### One step of each operation: issue, and a transfer at an edge (95_test_vectors.md) -/

/-- V-T10, V-T12: a tone is issued, and one of duration 0 is complete at issue with SEGI = 1. -/
theorem test_tone_issue :
    seen (step ((loaded 3000#16 1#16).withFetchWord 16 0x0100)) = some ⟨0x0100#16, 0x00000001#32, 0, 0, 0⟩ ∧
    seen (step ((loaded 1000#16 0#16).withFetchWord 16 0x0100)) = some ⟨0x0100#16, 0x00000000#32, 1, 0, 0⟩ := by decide

/-- V-T12: after 11 steps of a 3000 Hz tone the phase is 33000, the sample on offer is negative, and the step takes it. -/
theorem test_tone_transfer :
    let s := running 0x0100#16 0#32 11#32 (loaded 3000#16 1#16)
    phase s = 33000 ∧ outData s = 0xE667#16 ∧ (nextOf (step s)).map (fun t => t.out) = some [⟨.neg, false⟩] := by decide

/-- BIT 1 is issued (word 0x0201). -/
theorem test_bit_issue :
    seen (step (State.reset.withFetchWord 16 0x0201)) = some ⟨0x0201#16, 0x00000001#32, 0, 0, 0⟩ := by decide

/-- V-B1, V-B2: the second pulse starts at index 384 of BIT 0 and at index 192 of BIT 1. -/
theorem test_bit_transfer :
    seen (step (running 0x0200#16 0#32 191#32 State.reset)) = some ⟨0x0200#16, 0x00000001#32, 0, 192, 1⟩ ∧
    seen (step (running 0x0200#16 0#32 383#32 State.reset)) = some ⟨0x0200#16, 0x00000001#32, 1, 0, 1⟩ ∧
    seen (step (running 0x0201#16 0#32 191#32 State.reset)) = some ⟨0x0201#16, 0x00000001#32, 1, 0, 1⟩ := by decide

/-- P5 line 2: BYTE 0x41 is issued. -/
theorem test_byte_issue :
    seen (step (State.reset.withFetchWord 16 0x0341)) = some ⟨0x0341#16, 0x00000001#32, 0, 0, 0⟩ := by decide

/-- V-Y12: the stop bit's second pulse ends BYTE 0x41 with SEGI = 20; bit 7 of 0x41 is 0, so its first pulse is long. -/
theorem test_byte_transfer :
    seen (step (running 0x0341#16 19#32 383#32 State.reset)) = some ⟨0x0341#16, 0x00000000#32, 20, 0, 1⟩ ∧
    seen (step (running 0x0341#16 2#32 191#32 State.reset)) = some ⟨0x0341#16, 0x00000001#32, 2, 192, 1⟩ := by decide

/-- V-S1: LEAD is issued, and its 256000th sample ends it. -/
theorem test_lead :
    seen (step (State.reset.withFetchWord 16 0x0400)) = some ⟨0x0400#16, 0x00000001#32, 0, 0, 0⟩ ∧
    seen (step (running 0x0400#16 0#32 255999#32 State.reset)) = some ⟨0x0400#16, 0x00000000#32, 1, 0, 1⟩ := by decide

/-- V-S2: MID is issued, and its 128000th sample ends it. -/
theorem test_mid :
    seen (step (State.reset.withFetchWord 16 0x0500)) = some ⟨0x0500#16, 0x00000001#32, 0, 0, 0⟩ ∧
    seen (step (running 0x0500#16 0#32 127999#32 State.reset)) = some ⟨0x0500#16, 0x00000000#32, 1, 0, 1⟩ := by decide

/-- V-S3: TRAIL is issued, and its 128000th sample ends it. -/
theorem test_trail :
    seen (step (State.reset.withFetchWord 16 0x0600)) = some ⟨0x0600#16, 0x00000001#32, 0, 0, 0⟩ ∧
    seen (step (running 0x0600#16 0#32 127999#32 State.reset)) = some ⟨0x0600#16, 0x00000000#32, 1, 0, 1⟩ := by decide

/-- FRAME is issued straight out of reset (70_reset_and_hazards.md R93). -/
theorem test_frame_issue :
    seen (step (State.reset.withFetchWord 16 0x0700)) = some ⟨0x0700#16, 0x00000001#32, 0, 0, 0⟩ := by decide

/-- S5: the example frame passes from the lead sync to the header, and ends after segment 222 with SEGI = 223. -/
theorem test_frame_transfer :
    seen (step (running 0x0700#16 0#32 255999#32 example4)) = some ⟨0x0700#16, 0x00000001#32, 1, 0, 1⟩ ∧
    seen (step (running 0x0700#16 222#32 127999#32 example4)) = some ⟨0x0700#16, 0x00000000#32, 223, 0, 1⟩ := by decide

/-- S5: the ten slots of header byte 0xAA and of data byte 0x03 in the example frame, by their first pulses. -/
theorem test_frame_bytes :
    (List.range 10).map (fun n => (segAt .frame example4 (1 + 2 * n)).dur) = [6, 3, 6, 3, 6, 3, 6, 3, 6, 3] ∧
    (List.range 10).map (fun n => (segAt .frame example4 (202 + 2 * n)).dur) = [6, 6, 6, 6, 6, 6, 6, 3, 3, 3] := by decide

/-! ### The host port (95_test_vectors.md P5, P6) -/

/-- P5 lines 1, 3, 11, 13: E_ILL, E_BUSY, E_OPD for TONE, E_OPD for FRAME with DLEN = 65537. -/
theorem test_refused_commands :
    seen (regWrite 0x00 0x00000000#32 State.reset) = some ⟨0x0000#16, 0x00000100#32, 0, 0, 0⟩ ∧
    seen (regWrite 0x00 0x00000342#32 (running 0x0341#16 0#32 0#32 State.reset)) = some ⟨0x0341#16, 0x00000201#32, 0, 0, 0⟩ ∧
    seen (regWrite 0x00 0x00000100#32 State.reset) = some ⟨0x0000#16, 0x00000400#32, 0, 0, 0⟩ ∧
    seen (regWrite 0x00 0x00000700#32 { State.reset with dlen := 65537#32 }) = some ⟨0x0000#16, 0x00000400#32, 0, 0, 0⟩ := by
  decide

/-- V-B3: bits 31 to 16 of the value written to CMD are ignored. -/
theorem test_command_high_bits :
    seen (regWrite 0x00 0xABCD0201#32 State.reset) = some ⟨0x0201#16, 0x00000001#32, 0, 0, 0⟩ := by decide

/-- P5 lines 4 to 7: E_LOCK for an operand register and for DMEM, E_ADDR for register 0x07, all flags cleared, BUSY kept. -/
theorem test_locked_and_unimplemented :
    let s := running 0x0341#16 0#32 0#32 State.reset
    (nextOf (regWrite 0x02 440#32 s)).map (fun t => (t.freq, t.status.word)) = some (0#16, 0x00000801#32) ∧
    (memWrite 0 0x55#8 s).status.word = 0x00000801#32 ∧ (memWrite 0 0x55#8 s).dmem = [] ∧
    (regRead 0x07 s).status.word = 0x00001001#32 ∧ (regRead 0x07 s).reads = [.reg 0#32] ∧
    (nextOf (regWrite 0x01 0xFFFFFFFF#32 (regRead 0x07 s))).map (fun t => t.status.word) = some 0x00000001#32 := by decide

/-- P5 lines 12 and 15: DLEN = 65537 is stored, a write to DMEM address 65536 raises E_ADDR and 65535 exists. -/
theorem test_idle_writes :
    (nextOf (regWrite 0x04 65537#32 State.reset)).map (fun t => t.dlen) = some 65537#32 ∧
    (memWrite 65536 0x01#8 State.reset).status.word = 0x00001000#32 ∧
    (memWrite 65535 0x01#8 State.reset).dmem = [(65535, 0x01#8)] ∧
    dmemByte (memWrite 65535 0x01#8 State.reset) 65535 = 0x01#8 := by decide

/-- A written value is cut to the register's width (10_state.md R8), and DMEM stays sorted. -/
theorem test_widths_and_order :
    (nextOf (regWrite 0x02 0xFFFF03E8#32 State.reset)).map (fun t => t.freq) = some 1000#16 ∧
    (nextOf (regWrite 0x0E 0xFFFFFF06#32 State.reset)).map (fun t => t.hdr) =
      some #v[0#8, 0#8, 0#8, 0#8, 0#8, 0#8, 0x06#8] ∧
    (memWrite 2 0x22#8 (memWrite 5 0x55#8 (memWrite 2 0x11#8 State.reset))).dmem = [(2, 0x22#8), (5, 0x55#8)] := by decide

/-- V-A4: an idle write to SEGI or SN is ignored without a flag. -/
theorem test_position_is_read_only :
    nextOf (regWrite 0x05 5#32 State.reset) = some State.reset ∧ nextOf (regWrite 0x06 5#32 State.reset) = some State.reset := by
  decide

/-- P6: Reset in the middle of BIT 1 leaves the reset state but for OUT. -/
theorem test_reset_midway :
    let s := { running 0x0201#16 0#32 100#32 (loaded 5#16 7#16) with out := [⟨.pos, true⟩], host := [.reset], schedule := [.host] }
    nextOf (step s) = some { State.reset with out := [⟨.pos, true⟩] } := by decide

/-- A sink that is not ready takes nothing and the offer stands; WAIT stays pending while the block is busy. -/
theorem test_not_ready_and_wait :
    let s := { running 0x0201#16 0#32 100#32 State.reset with host := [.wait], schedule := [.sink false, .host] }
    (nextOf (step s)).map (fun t => (t.out.length, t.sn, t.outReady, outValid t)) = some (0, 100#32, false, true) ∧
    (nextOf (hostTurn s)).map (fun t => (t.host, t.reads)) = some ([.wait], [.reg 1#32]) := by decide

/-- Point checks of the square wave (95_test_vectors.md, "Point checks of sq"). -/
theorem test_square_wave :
    sq .pos 1000 31 = .pos ∧ sq .pos 1000 32 = .neg ∧ sq .pos 1000 63 = .neg ∧ sq .pos 1000 64 = .pos ∧
    sq .pos 2000 15 = .pos ∧ sq .pos 2000 16 = .neg ∧ sq .pos 2000 32 = .pos ∧
    sq .pos 3000 10 = .pos ∧ sq .pos 3000 11 = .neg ∧ sq .pos 3000 21 = .neg ∧ sq .pos 3000 22 = .pos ∧
    sq .pos 440 72 = .pos ∧ sq .pos 440 73 = .neg ∧ sq .neg 1000 31 = .neg := by decide

/-- A script line (30_encoding.md R42, 95_test_vectors.md P7). -/
theorem test_script_line :
    Line.expand (.sendBytes [0x41#8, 0x42#8]) =
      [.txn (.regWrite 0x00 0x00000341#32), .wait, .txn (.regWrite 0x00 0x00000342#32), .wait] ∧
    regOfName? "CKS" = some (.hdr 6) ∧ (regOfName? "SA1").map regNumber = some 0x0B := by decide

/-- An unwritten byte reads as the free value, whatever it is (93_implementation_defined.md U5). -/
theorem test_unwritten_byte (a : Nat) : dmemByte State.reset a = Config.powerOnByte a := rfl

/-! ### Witnesses: for each obligation with hypotheses, a concrete case that meets them, at the edges of each clause -/

/-- The invariant of a busy state, from the facts of `runs` and the memory. -/
theorem inv_of_running {s : State} {i : Instr} (hm : Memory.wf s.dmem ∧ ∀ c ∈ s.dmem, c.1 < s.params.dmemSize.val)
    (hr : decode s.cmd = .instr i ∧ operandsOk i s = true ∧ s.segi.toNat < nseg i s ∧
      s.sn.toNat < segLen (segAt i s s.segi.toNat).dur) (hb : s.status.busy = true) : Machine.Inv s :=
  ⟨hm.1, hm.2, .inr ⟨i, hr.1⟩, fun h => absurd (hb.symm.trans h) (by decide), fun _ => ⟨i, hr⟩⟩

/-- BIT 1 under way at the last sample of its first pulse. -/
def midBit : State := running 0x0201#16 0#32 191#32 State.reset

/-- The example frame under way at the last sample of its last data segment. -/
def midFrame : State := running 0x0700#16 221#32 383#32 example4

theorem midBit_inv : Machine.Inv midBit := inv_of_running (i := .bit 1#1) (by decide) (by decide) (by decide)

theorem midFrame_inv : Machine.Inv midFrame := inv_of_running (i := .frame) (by decide) (by decide) (by decide)

theorem witness_DecodeAndEncodeAgree :
    (Instr.byte 0xFF#8).wellFormed = true ∧ decode 0x0201#16 = .instr (.bit 1#1) := by decide

theorem witness_DecodingIsTheOpcodeMap :
    (⟨"BYTE", 0x0300#16, 0xFF00#16⟩ : OpcodeRow) ∈ opcodeTable ∧ 0x03AA#16 &&& 0xFF00#16 = 0x0300#16 ∧
    decode 0x03AA#16 = .instr (.byte 0xAA#8) := by decide

theorem witness_SquareWaveHalves :
    2 * (31 * 1000 % 64000) < 64000 ∧ 64000 ≤ 2 * (32 * 1000 % 64000) ∧ 64000 ≤ 2 * (63 * 1000 % 64000) := by decide

theorem witness_FrequencyActsModuloTheSampleRate : 64000 % 64000 = 0 ∧ 65535 % 64000 = 1535 := by decide

theorem witness_EverySegmentStartsAtPhaseZero :
    let g : Seg := ⟨440, 2⟩
    0 < 64 * g.dur ∧ 127 < 64 * g.dur := by decide

theorem witness_BitEncodingsDiffer : 191 < 192 ∧ 207 < 208 := by decide

theorem witness_ByteEncodingIsTenBits : (1 ≤ 1 ∧ 1 ≤ 8) ∧ (1 ≤ 8 ∧ 8 ≤ 8) := by decide

theorem witness_ByteEncodingStructure : 0 < 20 ∧ 19 < 20 := by decide

theorem witness_ByteEncodingIsInjective : encodeByte 0xAA#8 = encodeByte 0xAA#8 ∧ 0 < 8 ∧ 7 < 8 := by decide

/-- A header and payload, and an index in each branch at both of its ends. -/
theorem witness_FrameClosedFormAgrees :
    (frameHeader example4).length = 7 ∧
    ∀ k ∈ [0, 1, 140, 141, 142, 141 + 20 * 4, 142 + 20 * 4], k < 143 + 20 * (frameData example4).length := by decide

theorem witness_FrameSizes : (frameHeader example4).length = 7 ∧ (frameData example4).length = 4 := by decide

theorem witness_SegmentListsAgree :
    0 < nseg .tone State.reset ∧ 1 < nseg (.bit 0#1) State.reset ∧ 222 < nseg .frame example4 := by decide

theorem witness_StreamLengths :
    Instr.lead ≠ .tone ∧ (loaded 440#16 2#16).dur ≠ 0#16 ∧ (loaded 440#16 0#16).dur = 0#16 := by decide

/-- Two states that differ in what no stream reads, with a payload of four bytes. -/
theorem witness_StreamDependsOnOperandsOnly :
    let s := example4
    let t := running 0x0101#16 7#32 9#32 { example4 with freq := 5#16, out := [⟨.pos, true⟩] }
    s.params.pol0 = t.params.pol0 ∧ s ≠ t ∧ s.freq ≠ t.freq ∧
    (s.hdr = t.hdr ∧ s.dlen = t.dlen ∧ ∀ a, a < s.dlen.toNat → dmemByte s a = dmemByte t a) ∧
    (loaded 440#16 2#16).freq = (running 0x0100#16 0#32 5#32 (loaded 440#16 2#16)).freq :=
  ⟨by decide, by decide, by decide, ⟨by decide, by decide, fun _ _ => rfl⟩, by decide⟩

theorem witness_ToneIssue :
    (loaded 1#16 1#16).status.busy = false ∧ (loaded 1#16 1#16).freq ≠ 0#16 ∧ (loaded 1#16 1#16).dur ≠ 0#16 ∧
    (loaded 65535#16 0#16).freq ≠ 0#16 ∧ (loaded 65535#16 0#16).dur = 0#16 := by decide

theorem witness_BitIssue : State.reset.status.busy = false := by decide

theorem witness_ByteIssue : example4.status.busy = false := by decide

theorem witness_SyncIssue : (loaded 0#16 0#16).status.busy = false := by decide

/-- DLEN = 0 and DLEN = DMEM_SIZE. -/
theorem witness_FrameIssue :
    State.reset.status.busy = false ∧ State.reset.dlen.toNat ≤ State.reset.params.dmemSize.val ∧
    (let s := { State.reset with dlen := 65536#32 }
     s.status.busy = false ∧ s.dlen.toNat ≤ s.params.dmemSize.val) := by decide

/-- An accepted command and a refused one. -/
theorem witness_IssueFrame :
    (∃ t, exec .lead State.reset = .next t) ∧ (∃ t, exec .lead midBit = .next t) := ⟨⟨_, rfl⟩, ⟨_, rfl⟩⟩

theorem witness_OperandErrors :
    State.reset.status.busy = false ∧ State.reset.freq = 0#16 ∧
    (let s := { State.reset with dlen := 65537#32 }
     s.status.busy = false ∧ s.params.dmemSize.val < s.dlen.toNat) ∧
    (Instr.tone ≠ .frame ∧ (loaded 1#16 0#16).freq ≠ 0#16) ∧
    (Instr.frame ≠ .tone ∧ State.reset.dlen.toNat ≤ State.reset.params.dmemSize.val) := by decide

theorem witness_CommandWhileBusy : midBit.status.busy = true := by decide

theorem witness_IllegalCommand :
    State.reset.status.busy = false ∧
    (∀ r ∈ opcodeTable, (0x00000000#32).setWidth 16 &&& r.mask ≠ r.bits) ∧
    (∀ r ∈ opcodeTable, (0xFFFF0202#32).setWidth 16 &&& r.mask ≠ r.bits) ∧
    (∀ r ∈ opcodeTable, (0x00000800#32).setWidth 16 &&& r.mask ≠ r.bits) := by decide

/-- Both sides of each test of the rule: busy, illegal, TONE with FREQ = 0, FRAME with DLEN above the size, accepted. -/
theorem witness_CommandWriteRule :
    midBit.status.busy = true ∧ State.reset.status.busy = false ∧ instrOf? (decode 0x0000#16) = none ∧
    instrOf? (decode 0x0100#16) = some .tone ∧ State.reset.freq = 0#16 ∧ instrOf? (decode 0x0700#16) = some .frame ∧
    ∃ t, regWrite 0x00 0x00000400#32 State.reset = .next t :=
  ⟨by decide, by decide, by decide, by decide, by decide, by decide, ⟨_, rfl⟩⟩

/-- At the empty segment of a tone of duration 0, at a segment that is not empty, and past the last one. -/
theorem witness_NormaliseRule :
    (let s := loaded 1000#16 0#16
     s.segi.toNat ≤ nseg .tone s ∧ nseg .tone s < 2 ^ 32 ∧ segLen (segAt .tone s 0).dur = 0 ∧
      s.status.busy = false ∧ s.freq ≠ 0#16 ∧ s.dur = 0#16) ∧
    (midFrame.segi.toNat ≤ nseg .frame midFrame ∧ nseg .frame midFrame < 2 ^ 32 ∧
      0 < segLen (segAt .frame midFrame 221).dur) ∧
    (let s := running 0x0400#16 1#32 0#32 State.reset
     s.segi.toNat ≤ nseg .lead s ∧ 0 < nseg .lead s ∧ s.sn = 0#32) := by decide

theorem witness_StepRunsTheDecodedInstruction :
    (let s := { midBit with host := [.txn (.regWrite 0x00 0xABCD03FF#32)], schedule := [.host] }
     nextTurn s = .host ∧ s.host = .txn (.regWrite 0x00 0xABCD03FF#32) :: []) ∧
    decode ((0xABCD03FF#32).setWidth 16) = .instr (.byte 0xFF#8) ∧
    0x0700 < 65536 ∧ decode (BitVec.ofNat 16 0x0700) = .instr .frame := by decide

/-- Inside a segment, at its end, idle, and with a sink that is not ready. -/
theorem witness_TransferRule :
    (let s := { running 0x0201#16 0#32 190#32 State.reset with schedule := [.sink true] }
     s.schedule = .sink true :: [] ∧ s.status.busy = true ∧ decode s.cmd = .instr (.bit 1#1) ∧
      s.segi.toNat < nseg (.bit 1#1) s ∧ s.sn.toNat + 1 < segLen (segAt (.bit 1#1) s s.segi.toNat).dur) ∧
    (midBit.status.busy = true ∧ decode midBit.cmd = .instr (.bit 1#1) ∧ midBit.segi.toNat < nseg (.bit 1#1) midBit ∧
      ¬ midBit.sn.toNat + 1 < segLen (segAt (.bit 1#1) midBit midBit.segi.toNat).dur) ∧
    (let s := { State.reset with schedule := [.sink true, .host] }
     s.schedule = .sink true :: [.host] ∧ s.status.busy = false) ∧
    ({ State.reset with schedule := [.sink false] } : State).schedule = .sink false :: [] := by decide

theorem witness_OperationRunsToCompletion :
    (let s := loaded 440#16 0#16
     s.status.busy = false ∧ operandsOk .tone s = true ∧ s.schedule = [] ∧ s.outReady = true) ∧
    (example4.status.busy = false ∧ operandsOk .frame example4 = true ∧ example4.schedule = [] ∧
      example4.outReady = true) := by decide

/-- A transfer, a read of the host, and Reset. -/
theorem witness_PendingStreamIsConserved :
    Machine.Inv midBit ∧ midBit.status.busy = true ∧ (∃ t, step midBit = .next t) ∧
    (let s := { midFrame with host := [.reset], schedule := [.host] }
     Machine.Inv s ∧ nextTurn s = .host ∧ s.host.head? = some .reset ∧ ∃ t, step s = .next t) :=
  ⟨midBit_inv, by decide, ⟨_, rfl⟩, inv_of_running (i := .frame) (by decide) (by decide) (by decide), by decide, by decide,
    ⟨_, rfl⟩⟩

theorem witness_AcceptedCommandOwesItsStream :
    (loaded 65535#16 0#16).status.busy = false ∧ operandsOk .tone (loaded 65535#16 0#16) = true := by decide

theorem witness_BusyBlockNeverStalls :
    Machine.Inv midBit ∧ midBit.status.busy = true ∧ nextTurn midBit = .sink true ∧
    Machine.Inv midFrame ∧ midFrame.status.busy = true ∧ nextTurn midFrame = .sink true :=
  ⟨midBit_inv, by decide, by decide, midFrame_inv, by decide, by decide⟩

/-- A step that appends, and one that does not. -/
theorem witness_OutputOnlyByTransfers :
    (∃ t, step midBit = .next t ∧ t.out = midBit.out ++ [⟨.neg, false⟩]) ∧
    (∃ t, step State.reset = .next t ∧ t.out = State.reset.out) := ⟨⟨_, rfl, by decide⟩, ⟨_, rfl, rfl⟩⟩

theorem witness_OutIsNeverRead : ∃ t, step midFrame = .next t := ⟨_, rfl⟩

/-- At the end of a segment, inside one, and at the transfer that completes the operation. -/
theorem witness_PhaseAccumulator :
    (Machine.Inv midBit ∧ midBit.status.busy = true ∧ decode midBit.cmd = .instr (.bit 1#1) ∧
      nextTurn midBit = .sink true ∧ ∃ t, step midBit = .next t ∧ t.segi ≠ midBit.segi) ∧
    (let s := running 0x0100#16 0#32 10#32 (loaded 3000#16 1#16)
     Machine.Inv s ∧ s.status.busy = true ∧ decode s.cmd = .instr .tone ∧ nextTurn s = .sink true ∧
      ∃ t, step s = .next t ∧ t.segi = s.segi) ∧
    (let s := running 0x0201#16 1#32 383#32 State.reset
     Machine.Inv s ∧ s.status.busy = true ∧ decode s.cmd = .instr (.bit 1#1) ∧ nextTurn s = .sink true ∧
      ∃ t, step s = .next t ∧ t.segi ≠ s.segi ∧ t.status.busy = false) :=
  ⟨⟨midBit_inv, by decide, by decide, by decide, ⟨_, rfl, by decide⟩⟩,
    ⟨inv_of_running (i := .tone) (by decide) (by decide) (by decide), by decide, by decide, by decide, ⟨_, rfl, by decide⟩⟩,
    inv_of_running (i := .bit 1#1) (by decide) (by decide) (by decide), by decide, by decide, by decide,
    ⟨_, rfl, by decide, by decide⟩⟩

theorem reset_inv : Machine.Inv State.reset :=
  ⟨by decide, by decide, .inl rfl, fun _ => rfl, fun h => absurd h (by decide)⟩

/-- Idle, busy at SN = 191, busy at SN = 0, and a sink that is not ready. -/
theorem witness_OutputPort :
    (Machine.Inv State.reset ∧ State.reset.status.busy = false) ∧
    (Machine.Inv midBit ∧ midBit.status.busy = true ∧ decode midBit.cmd = .instr (.bit 1#1)) ∧
    (let s := running 0x0400#16 0#32 0#32 State.reset
     Machine.Inv s ∧ s.status.busy = true ∧ decode s.cmd = .instr .lead ∧ s.sn = 0#32) ∧
    ∃ t, sinkTurn false midBit = .next t :=
  ⟨⟨reset_inv, by decide⟩, ⟨midBit_inv, by decide, by decide⟩,
    ⟨inv_of_running (i := .lead) (by decide) (by decide) (by decide), by decide, by decide, by decide⟩, ⟨_, rfl⟩⟩

theorem witness_EveryStepKeepsTheInvariant :
    (Machine.Inv midFrame ∧ ∃ t, step midFrame = .next t) ∧ (Machine.Inv State.reset ∧ ∃ t, step State.reset = .next t) :=
  ⟨⟨midFrame_inv, ⟨_, rfl⟩⟩, ⟨reset_inv, ⟨_, rfl⟩⟩⟩

theorem witness_NoStepGoesWrong : Machine.Inv midFrame ∧ Machine.Inv State.reset := ⟨midFrame_inv, reset_inv⟩

/-- A write to FREQ while busy, and Reset while busy. -/
theorem witness_OperandsAreFrozenWhileBusy :
    (let s := { midBit with host := [.txn (.regWrite 0x02 440#32)], schedule := [.host] }
     s.status.busy = true ∧ ∃ t, step s = .next t) ∧
    (let s := { midBit with host := [.reset], schedule := [.host] }
     s.status.busy = true ∧ nextTurn s = .host ∧ s.host.head? = some .reset ∧ ∃ t, step s = .next t) :=
  ⟨⟨by decide, ⟨_, rfl⟩⟩, by decide, by decide, by decide, ⟨_, rfl⟩⟩

/-- A flag that stays set, and one that a STATUS write clears. -/
theorem witness_FlagsAreSticky :
    (let s := raise .eLock midBit
     s.status.get .eLock = true ∧ ∃ t, step s = .next t ∧ t.status.get .eLock = true) ∧
    (let s := { raise .eLock midBit with host := [.txn (.regWrite 0x01 0x00000800#32)], schedule := [.host] }
     s.status.get .eLock = true ∧ (0x00000800#32).getLsbD Flag.eLock.bit = true ∧
      ∃ t, step s = .next t ∧ t.status.get .eLock = false) :=
  ⟨⟨by decide, ⟨_, rfl, by decide⟩⟩, by decide, by decide, ⟨_, rfl, by decide⟩⟩

theorem witness_FlagsChangeNothing :
    (raise .eAddr midBit).status.busy = midBit.status.busy ∧ (raise .eAddr midBit).status ≠ midBit.status ∧
    (∃ t, exec .lead State.reset = .next t) ∧ ∃ t, transfer midBit = .next t :=
  ⟨by decide, by decide, ⟨_, rfl⟩, ⟨_, rfl⟩⟩

/-- TONE of duration 0, the example frame and the host program of 95_test_vectors.md P7 in sequence. -/
theorem witness_CommandsCompose :
    let ops : List Instr := [.tone, .frame, .byte 0x41#8, .byte 0x42#8]
    let s := { example4 with
      freq := 1#16, host := ops.flatMap (fun i => Line.expand (.command i) ++ Line.expand .wait) }
    (∀ i ∈ ops, operandsOk i s = true) ∧ s.status.busy = false ∧ s.schedule = [] ∧ s.outReady = true := by decide

theorem witness_RegisterReads : regOfNumber? 0x00 = some .cmd ∧ regOfNumber? 0x0E = some (.hdr 6) := by decide

theorem witness_OperandRegisterWrites :
    State.reset.status.busy = false ∧ (1 : Fin 7) ≠ 0 ∧ (6 : Fin 7) ≠ 0 ∧
    (∃ t, regWrite 0x02 0xFFFF03E8#32 State.reset = .next t) ∧ (∃ t, regWrite 0x03 0x00010001#32 State.reset = .next t) ∧
    ∃ t, regWrite 0x04 0xFFFFFFFF#32 State.reset = .next t :=
  ⟨by decide, by decide, by decide, ⟨_, rfl⟩, ⟨_, rfl⟩, ⟨_, rfl⟩⟩

/-- Each locked register at the ends of its range, and the last address of DMEM; the clauses on SEGI and SN need no hypothesis. -/
theorem witness_OperandLock :
    midBit.status.busy = true ∧
    (∀ r ∈ [0x02, 0x03, 0x04, 0x08, 0x0E], r = 0x02 ∨ r = 0x03 ∨ r = 0x04 ∨ (0x08 ≤ r ∧ r ≤ 0x0E)) ∧
    65535 < midBit.params.dmemSize.val := by decide

theorem witness_AddressErrors :
    (∀ r ∈ [0x07, 0x0F, 0x10, 0xFFFFFFFF], r = 0x07 ∨ r = 0x0F ∨ 0x10 ≤ r) ∧
    State.reset.params.dmemSize.val ≤ 65536 ∧
    ({ State.reset with params := { State.reset.params with dmemSize := 0 } } : State).params.dmemSize.val = 0 := by decide

theorem witness_RegisterMap : ∀ r ∈ [0x07, 0x0F, 0x10], regOfNumber? r = none := by decide

theorem witness_StatusWordLayout : (1 ≠ 0 ∧ 1 < 8) ∧ (7 ≠ 0 ∧ 7 < 8) ∧ (13 ≠ 0 ∧ 12 < 13) ∧ (31 ≠ 0 ∧ 12 < 31) := by decide

theorem witness_StatusWriteOneToClear :
    (0x00000100#32).getLsbD Flag.eIll.bit = true ∧ (0x00000100#32).getLsbD Flag.eAddr.bit = false := by decide

/-- A refused read of a register, of DMEM, and a refused write. -/
theorem witness_OneFlagPerTransaction :
    (∃ t, hostTxn (.regRead 0x07) State.reset = .next t ∧ State.reset.status.get .eAddr = false ∧
      t.status.get .eAddr = true) ∧
    (∃ t, hostTxn (.memRead 65536) State.reset = .next t ∧ t.status.get .eAddr = true) ∧
    (∃ t, hostTxn (.memWrite 0 0x55#8) midBit = .next t ∧ midBit.status.get .eLock = false ∧
      t.status.get .eLock = true) :=
  ⟨⟨_, rfl, by decide, by decide⟩, ⟨_, rfl, by decide⟩, ⟨_, rfl, by decide, by decide⟩⟩

theorem witness_MemoryWriteAndRead :
    0 < example4.params.dmemSize.val ∧ 65535 < example4.params.dmemSize.val ∧ example4.status.busy = false ∧
    5 ≠ 0 ∧ Memory.wf example4.dmem := by decide

theorem witness_UnwrittenByteIsStable : Memory.find? example4.dmem 4 = none ∧ 3 ≠ 4 := by decide

theorem witness_ResetValues :
    ({ midFrame with host := [.reset, .wait] } : State).host = .reset :: [.wait] ∧ Instr.tone = .tone ∧
    Instr.frame ≠ .tone := by decide

theorem witness_HostScript :
    ({ midBit with host := [.wait] } : State).host = .wait :: [] ∧ 0 < [0x00#8, 0x01#8].length := by decide

end Sys2Proof.Tests
end

section
/-! PROOFS. The carriers as whole cycles of the square wave (40_tone_source.md R44, R47), and the two bit encodings built
from them (41_bit_encoder.md R49). -/

namespace Sys2Proof.Machine

/-! ### A frequency whose cycle is a whole, even number of samples -/

/-- R44 reduced: where a cycle of `f` is exactly `2 * h` samples, the sign of sample `k` depends on `k` modulo the cycle. -/
theorem sq_of_wholeCycle {f h : Nat} (hf : f * (2 * h) = Config.FS) (p : Sign) (k : Nat) :
    sq p f k = if k % (2 * h) < h then p else p.flip := by
  have hpos : 0 < f := by
    refine Nat.pos_of_ne_zero fun h0 => ?_
    simp [h0, Config.FS] at hf
  have phase : k * f % (f * (2 * h)) = f * (k % (2 * h)) := by rw [Nat.mul_comm k f, Nat.mul_mod_mul_left]
  have half : 2 * (f * (k % (2 * h))) < f * (2 * h) ↔ k % (2 * h) < h := by
    rw [Nat.mul_left_comm, Nat.mul_lt_mul_left hpos]
    omega
  simp only [sq, ← hf, phase, half]

theorem sq_add_wholeCycle {f h : Nat} (hf : f * (2 * h) = Config.FS) (p : Sign) (k : Nat) :
    sq p f (2 * h + k) = sq p f k := by
  rw [sq_of_wholeCycle hf, sq_of_wholeCycle hf, Nat.add_mod_left]

/-- The first cycle: `h` samples of POL0, then `h` of its opposite. -/
theorem firstCycle_eq {f h : Nat} (hf : f * (2 * h) = Config.FS) (p : Sign) :
    (List.range (2 * h)).map (sq p f) = List.replicate h p ++ List.replicate h p.flip := by
  apply List.ext_getElem
  · simp [Nat.two_mul]
  · intro k hk _
    have hlt : k < 2 * h := by simpa using hk
    simp [sq_of_wholeCycle hf, Nat.mod_eq_of_lt hlt, List.getElem_append]

/-- `n` cycles are `n` copies of the first. -/
theorem cycles_eq {f h : Nat} (hf : f * (2 * h) = Config.FS) (p : Sign) (n : Nat) :
    (List.range (n * (2 * h))).map (sq p f) =
      (List.replicate n (List.replicate h p ++ List.replicate h p.flip)).flatten := by
  induction n with
  | zero => simp
  | succ n ih =>
    have shift : sq p f ∘ (2 * h + ·) = sq p f := funext (sq_add_wholeCycle hf p)
    rw [Nat.succ_mul, Nat.add_comm, List.range_add, List.map_append, List.map_map, shift, ih, firstCycle_eq hf,
      List.replicate_succ, List.flatten_cons]

/-- A segment of `n` whole cycles of its frequency. -/
theorem samples_eq_cycles {f h d n : Nat} (hf : f * (2 * h) = Config.FS) (hn : segLen d = n * (2 * h)) (p : Sign) :
    samples p ⟨f, d⟩ = (List.replicate n (List.replicate h p ++ List.replicate h p.flip)).flatten := by
  rw [samples, hn, cycles_eq hf]

/-- The high carrier: 2 cycles of 32 samples a millisecond. -/
theorem samples_F2 (p : Sign) (d : Nat) :
    samples p ⟨Config.F2, d⟩ =
      (List.replicate (2 * d) (List.replicate 16 p ++ List.replicate 16 p.flip)).flatten :=
  samples_eq_cycles rfl (by rw [segLen_eq]; omega) p

/-- The low carrier: 1 cycle of 64 samples a millisecond. -/
theorem samples_F1 (p : Sign) (d : Nat) :
    samples p ⟨Config.F1, d⟩ =
      (List.replicate d (List.replicate 32 p ++ List.replicate 32 p.flip)).flatten :=
  samples_eq_cycles rfl (by rw [segLen_eq]; omega) p

/-! ### The bit encodings -/

/-- A list of segments emits 64 pairs for each of its milliseconds. -/
theorem markedSegs_length_eq_dur (p : Sign) (gs : List Seg) :
    (markedSegs p gs).length = 64 * (gs.map (fun g => g.dur)).sum := by
  induction gs with
  | nil => rfl
  | cons g gs ih =>
    rw [markedSegs_cons, List.length_append, mark_length, samples_length, segLen_eq, ih, List.map_cons, List.sum_cons,
      Nat.mul_add]

theorem encodeBit_zero : encodeBit 0#1 = [⟨Config.F2, Config.T_LONG⟩, ⟨Config.F1, Config.T_SHORT⟩] := rfl

theorem encodeBit_one : encodeBit 1#1 = [⟨Config.F2, Config.T_SHORT⟩, ⟨Config.F1, Config.T_LONG⟩] := rfl

/-- Every bit has one long and one short pulse. -/
theorem encodeBit_dur_sum (b : Bit) : ((encodeBit b).map (fun g => g.dur)).sum = 9 := by
  unfold encodeBit
  split <;> rfl

theorem encodeBit_pairs_length (p : Sign) (b : Bit) : (markedSegs p (encodeBit b)).length = 576 := by
  rw [markedSegs_length_eq_dur, encodeBit_dur_sum]

/-- Settles O9: each pulse is a whole number of cycles of its carrier, and both bits last one long and one short pulse. -/
theorem bitEncodings : Obligations.BitEncodings := by
  refine ⟨encodeBit_zero, encodeBit_one, fun p => ⟨?_, ?_, encodeBit_pairs_length p⟩, encodeBit_dur_sum⟩
  · rw [encodeBit_zero, List.map_cons, List.map_cons, List.map_nil, samples_F2, samples_F1]
    rfl
  · rw [encodeBit_one, List.map_cons, List.map_cons, List.map_nil, samples_F2, samples_F1]
    rfl

end Sys2Proof.Machine
end

section
/-! PROOFS. The byte encoding as ten bit encodings, by slots and by bits (42_byte_encoder.md R52). -/

namespace Sys2Proof.Machine

/-! ### The slot function -/

@[simp] theorem slot_start (x : Byte) : slot x 0 = 0#1 := rfl

@[simp] theorem slot_stop (x : Byte) : slot x 9 = 1#1 := rfl

/-- Slots 1 to 8 carry the data bits, the most significant in slot 1. -/
theorem slot_data (x : Byte) {n : Nat} (hpos : 1 ≤ n) (hle : n ≤ 8) :
    slot x n = BitVec.ofBool (x.getLsbD (8 - n)) := by
  have hslot : slot x n = x.extractLsb' (8 - n) 1 := by
    rw [slot, if_neg (Nat.ne_of_gt hpos), if_pos hle]
  rw [hslot]
  ext i hi
  obtain rfl : i = 0 := by omega
  simp

/-! ### The byte encoding -/

theorem encodeByte_eq_flatMap_slots (x : Byte) :
    encodeByte x = (List.range 10).flatMap (fun n => encodeBit (slot x n)) := rfl

/-- R52's list: the ten slots written out, each replaced by the bit it carries. -/
theorem encodeByte_eq_append_bits (x : Byte) :
    encodeByte x = encodeBit 0#1
      ++ encodeBit (BitVec.ofBool (x.getLsbD 7)) ++ encodeBit (BitVec.ofBool (x.getLsbD 6))
      ++ encodeBit (BitVec.ofBool (x.getLsbD 5)) ++ encodeBit (BitVec.ofBool (x.getLsbD 4))
      ++ encodeBit (BitVec.ofBool (x.getLsbD 3)) ++ encodeBit (BitVec.ofBool (x.getLsbD 2))
      ++ encodeBit (BitVec.ofBool (x.getLsbD 1)) ++ encodeBit (BitVec.ofBool (x.getLsbD 0))
      ++ encodeBit 1#1 := by
  have hrange : List.range 10 = [0, 1, 2, 3, 4, 5, 6, 7, 8, 9] := rfl
  rw [encodeByte_eq_flatMap_slots, hrange]
  simp [slot_data, List.append_assoc]

/-- Settles O11: the slot list written out, with each slot's bit named by the slot laws. -/
theorem byteEncodingIsTenBits : Obligations.ByteEncodingIsTenBits := by
  intro x s
  exact ⟨rfl, encodeByte_eq_append_bits x, encodeByte_eq_flatMap_slots x, slot_start x,
    fun _ hpos hle => slot_data x hpos hle, slot_stop x⟩

end Sys2Proof.Machine
end

section
/-! PROOFS. A legal word is the encoding of the operation it decodes to (30_encoding.md R41), and when the operand
precondition fails (60_exceptions.md R81). -/

namespace Sys2Proof

/-- `imm8` of a legal BIT word is its operand bit. -/
theorem setWidth_low_bit {imm : Byte} (h : imm.extractLsb' 1 7 = 0#7) : (imm.extractLsb' 0 1).setWidth 8 = imm := by
  have high : imm.toNat / 2 % 128 = 0 := by
    simpa [BitVec.extractLsb'_toNat, Nat.shiftRight_eq_div_pow] using congrArg BitVec.toNat h
  have := imm.isLt
  apply BitVec.eq_of_toNat_eq
  rw [BitVec.toNat_setWidth, BitVec.extractLsb'_toNat, Nat.shiftRight_zero]
  omega

/-- `encode` undoes `decode`: the word and the encoding have the same fields. -/
theorem encode_of_decode {w : CmdWord} {i : Instr} (h : decode w = .instr i) : encode i = w := by
  rcases decode_instr_fields h with ⟨ho, hi, rfl⟩ | ⟨ho, hi, rfl⟩ | ⟨ho, rfl⟩ | ⟨ho, hi, rfl⟩ | ⟨ho, hi, rfl⟩ |
    ⟨ho, hi, rfl⟩ | ⟨ho, hi, rfl⟩
  case inr.inl =>
    obtain ⟨opc, imm⟩ := fields_encode_bit ((immField w).extractLsb' 0 1)
    exact word_ext_fields (opc.trans ho.symm) (imm.trans (setWidth_low_bit hi))
  case inr.inr.inl =>
    obtain ⟨opc, imm⟩ := fields_encode_byte (immField w)
    exact word_ext_fields (opc.trans ho.symm) imm
  all_goals exact word_ext_fields (Eq.trans (by decide) ho.symm) (Eq.trans (by decide) hi.symm)

/-- The low half of a register value (10_state.md R8). -/
theorem ofNat_mod_eq_setWidth (v : Word) : BitVec.ofNat 16 (v.toNat % 65536) = v.setWidth 16 := by
  apply BitVec.eq_of_toNat_eq
  simp

namespace Machine

/-- The two ways a precondition fails (60_exceptions.md R81). -/
theorem operandsOk_eq_false (i : Instr) (s : State) :
    operandsOk i s = false ↔ (i = .tone ∧ s.freq = 0#16) ∨ (i = .frame ∧ s.params.dmemSize.val < s.dlen.toNat) := by
  rw [← Bool.not_eq_true]
  cases i with
  | tone => simp [operandsOk_tone]
  | frame => simp [operandsOk_frame]
  | _ => simp [operandsOk]

end Machine
end Sys2Proof
end

section
/-! PROOFS. The command write, a rule for each of its branches (44_sequencer_and_stream.md R67). -/

namespace Sys2Proof.Machine

theorem regWrite_cmd (v : Word) (s : State) : regWrite 0x00 v s = commandWrite v s := rfl

theorem commandWrite_busy {s : State} (hb : s.status.busy = true) (v : Word) :
    commandWrite v s = .next (raise .eBusy s) := by
  rw [commandWrite, if_pos hb]

theorem commandWrite_illegal {v : Word} {s : State} {why : IllegalWord} (hb : s.status.busy = false)
    (hd : decode (v.setWidth 16) = .illegal why) : commandWrite v s = .next (raise .eIll s) := by
  simp [commandWrite, hb, hd]

theorem commandWrite_legal {v : Word} {s : State} {i : Instr} (hb : s.status.busy = false)
    (hd : decode (v.setWidth 16) = .instr i) :
    commandWrite v s = .next (if operandsOk i s then accept i s else raise .eOpd s) := by
  simp only [commandWrite, hb, hd, exec_eq_issue, issue]
  cases operandsOk i s <;> rfl

/-- The issue latches the very word that was written. -/
theorem accept_of_decode {w : CmdWord} {i : Instr} (hd : decode w = .instr i) (s : State) :
    accept i s = normalise i { s with cmd := w, segi := 0#32, sn := 0#32 } := by
  rw [accept, encode_of_decode hd]
  rfl

@[simp] theorem accept_out (i : Instr) (s : State) : (accept i s).out = s.out := rfl

/-- A command write emits nothing by itself. -/
theorem commandWrite_out {v : Word} {s t : State} (h : commandWrite v s = .next t) : t.out = s.out := by
  rcases commandWrite_cases v s with ⟨f, hw, _⟩ | ⟨i, _, _, _, hw⟩
  · cases hw.symm.trans h
    exact raise_out f s
  · cases hw.symm.trans h
    exact accept_out i s

/-- Settles O29: the rules of the command write, in the order of R67's tests. -/
theorem commandWriteRule : Obligations.CommandWriteRule := by
  intro v s
  refine ⟨?_, fun t h => commandWrite_out h⟩
  rw [regWrite_cmd, ofNat_mod_eq_setWidth]
  cases hb : s.status.busy with
  | true => exact commandWrite_busy hb v
  | false =>
    cases hd : decode (v.setWidth 16) with
    | illegal why => exact commandWrite_illegal hb hd
    | instr i =>
      rw [commandWrite_legal hb hd]
      cases ho : operandsOk i s with
      | true =>
        have hok : ¬ ((i = .tone ∧ s.freq = 0#16) ∨ (i = .frame ∧ s.params.dmemSize.val < s.dlen.toNat)) := by
          simp [← operandsOk_eq_false, ho]
        obtain ⟨htone, hframe⟩ := not_or.mp hok
        simp [instrOf?, htone, hframe, accept_of_decode hd]
      | false =>
        rcases (operandsOk_eq_false i s).mp ho with htone | hframe
        · simp [instrOf?, htone, raise, Status.raise]
        · simp [instrOf?, hframe, raise, Status.raise]

end Sys2Proof.Machine
end

section
/-! PROOFS. Where `normalise` stops, and the one operation that has an empty segment (44_sequencer_and_stream.md R68). -/

namespace Sys2Proof.Machine

/-- The loop of R68 from a position inside the list or at its end. -/
theorem stopAt_spec {i : Instr} {s : State} (h : s.segi.toNat ≤ nseg i s) :
    s.segi.toNat ≤ stopAt i s ∧ stopAt i s ≤ nseg i s ∧
      (∀ j, s.segi.toNat ≤ j → j < stopAt i s → segLen (segAt i s j).dur = 0) ∧
      (stopAt i s < nseg i s → 0 < segLen (segAt i s (stopAt i s)).dur) := by
  have stops := skipEmpty_stops i s (nseg i s - s.segi.toNat) s.segi.toNat
  rwa [Nat.add_sub_cancel' h] at stops

theorem segLen_eq_zero (d : Nat) : segLen d = 0 ↔ d = 0 := by
  rw [segLen_eq]
  omega

/-- Only TONE with DUR = 0 has an empty segment. -/
theorem segAt_len_eq_zero (i : Instr) (s : State) (k : Nat) :
    segLen (segAt i s k).dur = 0 ↔ i = .tone ∧ s.dur = 0#16 := by
  by_cases hi : i = .tone
  · subst hi
    simp [segLen_eq_zero, segAt, toneDur, BitVec.toNat_eq]
  · simp [hi, Nat.ne_of_gt (segAt_len_pos hi s k)]

/-- From its one segment, an empty tone moves to the end of its list. -/
theorem stopAt_tone_empty {s : State} (hs : s.segi = 0#32) (hd : s.dur = 0#16) : stopAt .tone s = 1 := by
  have empty : segLen (segAt .tone s 0).dur = 0 := (segAt_len_eq_zero .tone s 0).mpr ⟨rfl, hd⟩
  simp [stopAt, hs, nseg, skipEmpty, empty]

/-- An empty tone is complete at issue. -/
theorem accept_tone_empty {s : State} (hb : s.status.busy = false) (hd : s.dur = 0#16) :
    accept .tone s = { s with cmd := 0x0100#16, segi := 1#32, sn := 0#32 } := by
  have idle : s.status.setBusy false = s.status := by rw [← hb, setBusy_same]
  rw [accept, normalise_eq, stopAt_tone_empty (by simp) (by simpa using hd)]
  simp [setBusy, moveTo, latchCommand, nseg, encode, idle]

/-- Settles O30: the loop's stopping point, the one empty segment, and the issue of an empty tone. -/
theorem normaliseRule : Obligations.NormaliseRule := by
  refine ⟨fun i s hle _ => ?_, fun i s k _ => segAt_len_eq_zero i s k, fun s hb hf hd => ?_⟩
  · obtain ⟨hfrom, hto, hempty, hstop⟩ := stopAt_spec hle
    have hsn : stopAt i s < nseg i s → s.sn = 0#32 → s.sn.toNat < segLen (segAt i s (stopAt i s)).dur :=
      fun hk h0 => by simpa [h0] using hstop hk
    exact ⟨stopAt i s, hfrom, hto, hempty, fun hk => ⟨hstop hk, hsn hk⟩, normalise_eq i s⟩
  · have legal : decode ((0x00000100#32).setWidth 16) = .instr .tone := by decide
    rw [regWrite_cmd, commandWrite_legal hb legal, if_pos ((operandsOk_tone s).mpr hf), accept_tone_empty hb hd]

end Sys2Proof.Machine
end

section
/-! PROOFS. An issue, a rule for each of its three outcomes (44_sequencer_and_stream.md R67; 60_exceptions.md R80, R81). -/

namespace Sys2Proof.Machine

theorem exec_busy {s : State} (hb : s.status.busy = true) (i : Instr) : exec i s = .next (raise .eBusy s) := by
  rw [exec_eq_issue, issue, if_pos hb]

theorem exec_accepted {i : Instr} {s : State} (hb : s.status.busy = false) (ho : operandsOk i s = true) :
    exec i s = .next (accept i s) := by
  simp [exec_eq_issue, issue, hb, ho]

theorem exec_refused {i : Instr} {s : State} (hb : s.status.busy = false) (ho : operandsOk i s = false) :
    exec i s = .next (raise .eOpd s) := by
  simp [exec_eq_issue, issue, hb, ho]

@[simp] theorem accept_cmd (i : Instr) (s : State) : (accept i s).cmd = encode i := rfl

@[simp] theorem get_accept (f : Flag) (i : Instr) (s : State) : (accept i s).status.get f = s.status.get f :=
  get_setBusy s.status _ f

/-- Settles O26: the two failing preconditions are refused, every other idle command is accepted. -/
theorem operandErrors : Obligations.OperandErrors := by
  intro s hb
  refine ⟨fun hf => ?_, fun hl => ?_, fun i hf hl => ?_⟩
  · exact exec_refused hb ((operandsOk_eq_false .tone s).mpr (.inl ⟨rfl, hf⟩))
  · exact exec_refused hb ((operandsOk_eq_false .frame s).mpr (.inr ⟨rfl, hl⟩))
  · have ho : operandsOk i s = true := by
      rw [← Bool.not_eq_false, operandsOk_eq_false]
      rintro (⟨htone, hzero⟩ | ⟨hframe, habove⟩)
      · exact hf.elim (absurd htone) (absurd hzero)
      · exact hl.elim (absurd hframe) (Nat.not_le_of_lt habove)
    exact ⟨accept i s, exec_accepted hb ho, get_accept .eOpd i s, accept_cmd i s⟩

/-- A refusal leaves what the running operation has still to emit. -/
@[simp] theorem remaining_raise (f : Flag) (s : State) : remaining (raise f s) = remaining s := by
  simp [remaining]

/-- Settles O27: the command write and every `exec` refuse at their first test, BUSY. -/
theorem commandWhileBusy : Obligations.CommandWhileBusy := by
  intro v s hb
  exact ⟨commandWrite_busy hb v, exec_busy hb, remaining_raise .eBusy s⟩

end Sys2Proof.Machine
end

section
/-! PROOFS. A word that selects no row of the opcode map decodes to no operation (30_encoding.md R40; 60_exceptions.md R79). -/

namespace Sys2Proof

/-- The encoding of every operation selects a row. -/
theorem encode_selects_row (i : Instr) : ∃ r ∈ opcodeTable, encode i &&& r.mask = r.bits := by
  have row : Laws.TableRow.Statement i := by
    cases i with
    | tone => exact Laws.TableRow.tone
    | bit b => exact Laws.TableRow.bit b
    | byte x => exact Laws.TableRow.byte x
    | lead => exact Laws.TableRow.lead
    | mid => exact Laws.TableRow.mid
    | trail => exact Laws.TableRow.trail
    | frame => exact Laws.TableRow.frame
  obtain ⟨r, hmem, _, hsel⟩ := row
  exact ⟨r, hmem, hsel⟩

theorem decode_illegal_of_no_row {w : CmdWord} (h : ∀ r ∈ opcodeTable, w &&& r.mask ≠ r.bits) :
    ∃ why, decode w = .illegal why := by
  cases hd : decode w with
  | illegal why => exact ⟨why, rfl⟩
  | instr i =>
    obtain ⟨r, hmem, hsel⟩ := encode_selects_row i
    rw [encode_of_decode hd] at hsel
    exact absurd hsel (h r hmem)

/-- Settles O28: no row, so no operation, so the illegal branch of the command write. -/
theorem illegalCommand : Obligations.IllegalCommand := by
  refine ⟨fun v s hb hrow => ?_, fun w hw => ?_⟩
  · obtain ⟨why, hd⟩ := decode_illegal_of_no_row hrow
    exact Machine.commandWrite_illegal hb hd
  · rcases hw with rfl | rfl | rfl | rfl <;> decide

end Sys2Proof
end

section
/-! PROOFS. The refusals of the host port: the busy lock (60_exceptions.md R82) and the addresses that do not exist (R83). -/

namespace Sys2Proof.Machine

/-! ### The busy lock -/

theorem lockedWrite_busy {s : State} (hb : s.status.busy = true) (write : State → State) :
    lockedWrite write s = raise .eLock s := by
  rw [lockedWrite, if_pos hb]

theorem regWrite_hdr (i : Fin 7) (v : Word) (s : State) :
    regWrite (0x08 + i.val) v s = .next (lockedWrite (setHdr i v) s) := by
  have hnum : regOfNumber? (0x08 + i.val) = some (.hdr i) := regOfNumber_regNumber (.hdr i)
  rw [regWrite, hnum]

/-- A write to FREQ, DUR, DLEN or one of the seven HDR numbers goes through the lock. -/
theorem regWrite_operand {r : Nat} (hr : r = 0x02 ∨ r = 0x03 ∨ r = 0x04 ∨ (0x08 ≤ r ∧ r ≤ 0x0E)) (v : Word)
    (s : State) : ∃ write, regWrite r v s = .next (lockedWrite write s) := by
  rcases hr with rfl | rfl | rfl | ⟨hlo, hhi⟩
  · exact ⟨setFreq v, rfl⟩
  · exact ⟨setDur v, rfl⟩
  · exact ⟨setDlen v, rfl⟩
  · obtain ⟨k, rfl⟩ := Nat.exists_eq_add_of_le hlo
    exact ⟨_, regWrite_hdr ⟨k, by omega⟩ v s⟩

theorem memWrite_inside {a : Nat} {s : State} (ha : a < s.params.dmemSize.val) (x : Byte) :
    memWrite a x s = lockedWrite (storeByte a x) s := by
  rw [memWrite, dmemHas, if_pos (decide_eq_true ha)]

theorem regWrite_status (v : Word) (s : State) : regWrite 0x01 v s = .next (clearFlags v s) := rfl

/-- Settles O51: operand writes meet the lock, a STATUS write does not, SEGI and SN ignore every write. -/
theorem operandLock : Obligations.OperandLock := by
  intro v s
  refine ⟨fun hb => ⟨fun r hr => ?_, fun a x ha => ?_, ?_⟩, rfl, rfl⟩
  · obtain ⟨write, hw⟩ := regWrite_operand hr v s
    rw [hw, lockedWrite_busy hb]
    rfl
  · rw [memWrite_inside ha, lockedWrite_busy hb]
    rfl
  · exact ⟨clearFlags v s, regWrite_status v s, get_writeOneToClear s.status v .eLock⟩

/-! ### Addresses that do not exist -/

theorem regOfNumber_unimplemented {r : Nat} (hr : r = 0x07 ∨ r = 0x0F ∨ 0x10 ≤ r) : regOfNumber? r = none := by
  rcases hr with rfl | rfl | hge
  · rfl
  · rfl
  · obtain ⟨k, rfl⟩ := Nat.exists_eq_add_of_le' hge
    rfl

theorem regRead_unimplemented {r : Nat} (h : regOfNumber? r = none) (s : State) :
    regRead r s = returnRead (.reg 0#32) (raise .eAddr s) := by
  rw [regRead, h]

theorem regWrite_unimplemented {r : Nat} (h : regOfNumber? r = none) (v : Word) (s : State) :
    regWrite r v s = .next (raise .eAddr s) := by
  rw [regWrite, h]

theorem dmemHas_outside {a : Nat} {s : State} (ha : s.params.dmemSize.val ≤ a) : dmemHas s a = false :=
  decide_eq_false (Nat.not_lt_of_le ha)

theorem memRead_outside {a : Nat} {s : State} (ha : s.params.dmemSize.val ≤ a) :
    memRead a s = returnRead (.mem 0x00#8) (raise .eAddr s) := by
  simp [memRead, dmemHas_outside ha]

theorem memWrite_outside {a : Nat} {s : State} (ha : s.params.dmemSize.val ≤ a) (x : Byte) :
    memWrite a x s = raise .eAddr s := by
  simp [memWrite, dmemHas_outside ha]

/-- Settles O52: an unimplemented number and an address outside DMEM, read and write; with DMEM_SIZE = 0 every address
is outside. -/
theorem addressErrors : Obligations.AddressErrors := by
  intro s
  refine ⟨fun r hr => ?_, fun a ha => ?_⟩
  · have hnone := regOfNumber_unimplemented hr
    exact ⟨regRead_unimplemented hnone s, fun v => regWrite_unimplemented hnone v s⟩
  · have hout : s.params.dmemSize.val ≤ a := by omega
    exact ⟨memRead_outside hout, memWrite_outside hout⟩

end Sys2Proof.Machine
end

section
/-! PROOFS. The STATUS write: write one to clear (10_state.md R10; 60_exceptions.md R86). -/

namespace Sys2Proof.Machine

theorem get_clear (b : Bool) (f : Flag) : ({ Status.clear with busy := b } : Status).get f = false := by
  cases f <;> rfl

/-- The word of CLRERR has a 1 in the bit of every flag. -/
theorem clrErr_selects (f : Flag) : (0x00001F00#32).getLsbD f.bit = true := by
  cases f <;> decide

theorem writeOneToClear_clrErr (st : Status) :
    st.writeOneToClear 0x00001F00#32 = { Status.clear with busy := st.busy } :=
  status_ext rfl fun f => by rw [get_writeOneToClear, clrErr_selects, get_clear, Bool.not_true, Bool.and_false]

/-- Settles O53: the written status flag by flag, and CLRERR. -/
theorem statusWriteOneToClear : Obligations.StatusWriteOneToClear := by
  intro v s
  refine ⟨⟨s.status.writeOneToClear v, regWrite_status v s, writeOneToClear_busy s.status v, fun f => ?_⟩, ?_⟩
  · rw [get_writeOneToClear]
    cases v.getLsbD f.bit <;> simp
  · rw [regWrite_status, clearFlags, writeOneToClear_clrErr]

end Sys2Proof.Machine
end

section
/-! PROOFS. The decoder undoes the encoder, and its chain of tests on the two fields of a word as naturals (30_encoding.md R41). -/

namespace Sys2Proof

/-! ### Decoding an encoding -/

/-- The legal BIT words: `imm8` is the operand bit, zero-extended. -/
theorem decodeBit_setWidth (b : Bit) : decodeBit (b.setWidth 8) = .instr (.bit b) := by
  revert b
  decide

/-- `decode` undoes `encode`. -/
theorem decode_encode (i : Instr) : decode (encode i) = .instr i := by
  cases i with
  | bit b =>
    obtain ⟨hopc, himm⟩ := fields_encode_bit b
    simp [decode, hopc, himm, decodeBit_setWidth]
  | byte x =>
    obtain ⟨hopc, himm⟩ := fields_encode_byte x
    simp [decode, hopc, himm]
  | _ => decide

theorem encode_bit_toNat (b : Bit) : (encode (.bit b)).toNat = 0x0200 + b.toNat := by
  revert b
  decide

theorem encode_byte_toNat (x : Byte) : (encode (.byte x)).toNat = 0x0300 + x.toNat := by
  have := x.isLt
  simp only [encode, BitVec.toNat_add, BitVec.toNat_setWidth, BitVec.toNat_ofNat]
  omega

/-! ### The decoder's tests as tests on naturals -/

theorem opcField_eq_iff (w : CmdWord) (o : BitVec 8) : opcField w = o ↔ w.toNat / 256 = o.toNat := by
  rw [BitVec.toNat_eq, opcField_toNat]

theorem immField_eq_iff (w : CmdWord) (m : Byte) : immField w = m ↔ w.toNat % 256 = m.toNat := by
  rw [BitVec.toNat_eq, immField_toNat]

theorem immField_high_eq_zero_iff (w : CmdWord) :
    (immField w).extractLsb' 1 7 = 0#7 ↔ w.toNat % 256 / 2 = 0 := by
  rw [BitVec.toNat_eq, BitVec.extractLsb'_toNat, immField_toNat, Nat.shiftRight_eq_div_pow, BitVec.toNat_ofNat]
  omega

theorem immField_low_eq (w : CmdWord) : (immField w).extractLsb' 0 1 = BitVec.ofNat 1 (w.toNat % 2) := by
  apply BitVec.eq_of_toNat_eq
  rw [BitVec.extractLsb'_toNat, immField_toNat, BitVec.toNat_ofNat, Nat.shiftRight_zero]
  omega

theorem immField_eq_ofNat (w : CmdWord) : immField w = BitVec.ofNat 8 (w.toNat % 256) :=
  (immField_eq_iff w _).mpr (by simp)

theorem instrOf_decodeNoImm (i : Instr) (w : CmdWord) :
    instrOf? (decodeNoImm i (immField w)) = if w.toNat % 256 = 0 then some i else none := by
  simp only [decodeNoImm, immField_eq_iff, apply_ite instrOf?]
  rfl

theorem instrOf_decodeBit (w : CmdWord) :
    instrOf? (decodeBit (immField w)) =
      if w.toNat % 256 / 2 = 0 then some (.bit (BitVec.ofNat 1 (w.toNat % 2))) else none := by
  simp only [decodeBit, immField_high_eq_zero_iff, immField_low_eq, apply_ite instrOf?]
  rfl

/-- The decoder, opcode first and immediate second, on naturals. -/
theorem instrOf_decode_eq_byOpcode (w : CmdWord) :
    instrOf? (decode w) =
      if w.toNat / 256 = 1 then if w.toNat % 256 = 0 then some .tone else none
      else if w.toNat / 256 = 2 then
        if w.toNat % 256 / 2 = 0 then some (.bit (BitVec.ofNat 1 (w.toNat % 2))) else none
      else if w.toNat / 256 = 3 then some (.byte (BitVec.ofNat 8 (w.toNat % 256)))
      else if w.toNat / 256 = 4 then if w.toNat % 256 = 0 then some .lead else none
      else if w.toNat / 256 = 5 then if w.toNat % 256 = 0 then some .mid else none
      else if w.toNat / 256 = 6 then if w.toNat % 256 = 0 then some .trail else none
      else if w.toNat / 256 = 7 then if w.toNat % 256 = 0 then some .frame else none
      else none := by
  simp only [decode, opcField_eq_iff, apply_ite instrOf?, instrOf_decodeNoImm, instrOf_decodeBit]
  rw [← immField_eq_ofNat]
  rfl

/-- Settles O1: the two round trips, the encodings, and R41's chain, in which an opcode whose immediate fails its test falls
through every later test. -/
theorem decodeAndEncodeAgree : Obligations.DecodeAndEncodeAgree := by
  refine ⟨fun i _ => decode_encode i, fun w i => encode_of_decode,
    ⟨rfl, encode_bit_toNat, encode_byte_toNat, rfl, rfl, rfl, rfl⟩, fun w => ?_⟩
  rw [instrOf_decode_eq_byOpcode]
  have opcode : w.toNat / 256 = 1 ∨ w.toNat / 256 = 2 ∨ w.toNat / 256 = 3 ∨ w.toNat / 256 = 4 ∨ w.toNat / 256 = 5 ∨
      w.toNat / 256 = 6 ∨ w.toNat / 256 = 7 ∨ w.toNat / 256 = 0 ∨ 8 ≤ w.toNat / 256 := by omega
  rcases opcode with h | h | h | h | h | h | h | h | h
  case inr.inr.inr.inr.inr.inr.inr.inr =>
    have hne : ∀ o < 8, w.toNat / 256 ≠ o := fun o ho => by omega
    simp [hne]
  all_goals simp [h]

end Sys2Proof
end

section
/-! PROOFS. Legality is the selection of one row of the opcode map (30_encoding.md R39, R40). -/

namespace Sys2Proof

/-- The encoding of every operation selects the row with its mnemonic. -/
theorem encode_selects_named_row : ∀ i : Instr, Laws.TableRow.Statement i
  | .tone => Laws.TableRow.tone
  | .bit b => Laws.TableRow.bit b
  | .byte x => Laws.TableRow.byte x
  | .lead => Laws.TableRow.lead
  | .mid => Laws.TableRow.mid
  | .trail => Laws.TableRow.trail
  | .frame => Laws.TableRow.frame

theorem decode_selects_named_row {w : CmdWord} {i : Instr} (h : decode w = .instr i) :
    ∃ r ∈ opcodeTable, r.mnemonic = mnemonicOf i ∧ w &&& r.mask = r.bits := by
  have row := encode_selects_named_row i
  rwa [Laws.TableRow.Statement, encode_of_decode h] at row

theorem opcField_and (w m : CmdWord) : opcField (w &&& m) = opcField w &&& opcField m := BitVec.extractLsb'_and

theorem immField_and (w m : CmdWord) : immField (w &&& m) = immField w &&& immField m := BitVec.extractLsb'_and

/-- A mask that keeps the whole opcode keeps the opcode of the row. -/
theorem opcField_of_row {w m b : CmdWord} (hm : opcField m = 0xFF#8) (h : w &&& m = b) : opcField w = opcField b := by
  rw [← h, opcField_and, hm]
  exact (BitVec.and_allOnes (x := opcField w)).symm

/-- The BIT row leaves the last bit of the word free. -/
theorem decode_of_bit_row {w : CmdWord} (h : w &&& 0xFFFE#16 = 0x0200#16) :
    decode w = .instr (.bit ((immField w).extractLsb' 0 1)) := by
  have hopc : opcField w = 0x02#8 := opcField_of_row (by decide) h
  have himm : immField w &&& 0xFE#8 = 0x00#8 := by
    rw [show (0xFE#8 : Byte) = immField 0xFFFE#16 by decide, ← immField_and, h]
    decide
  have hhigh : (immField w).extractLsb' 1 7 = 0#7 := by
    rw [← BitVec.and_allOnes (x := (immField w).extractLsb' 1 7)]
    exact BitVec.extractLsb'_and.symm.trans (congrArg (BitVec.extractLsb' 1 7) himm)
  simp [decode, hopc, decodeBit, hhigh]

/-- The BYTE row leaves the low byte of the word free. -/
theorem decode_of_byte_row {w : CmdWord} (h : w &&& 0xFF00#16 = 0x0300#16) :
    decode w = .instr (.byte (immField w)) := by
  have hopc : opcField w = 0x03#8 := opcField_of_row (by decide) h
  simp [decode, hopc]

/-- A word that selects a row is legal. -/
theorem decode_of_row {w : CmdWord} {r : OpcodeRow} (hr : r ∈ opcodeTable) (h : w &&& r.mask = r.bits) :
    ∃ i, decode w = .instr i := by
  have full {v b : CmdWord} (hv : v &&& 0xFFFF#16 = b) : v = b := (BitVec.and_allOnes (x := v)).symm.trans hv
  simp only [opcodeTable, List.mem_cons, List.not_mem_nil, or_false] at hr
  rcases hr with rfl | rfl | rfl | rfl | rfl | rfl | rfl
  · exact ⟨.tone, by rw [full h]; decide⟩
  · exact ⟨_, decode_of_bit_row h⟩
  · exact ⟨_, decode_of_byte_row h⟩
  · exact ⟨.lead, by rw [full h]; decide⟩
  · exact ⟨.mid, by rw [full h]; decide⟩
  · exact ⟨.trail, by rw [full h]; decide⟩
  · exact ⟨.frame, by rw [full h]; decide⟩

/-- Any two rows ask different values of a bit that both masks look at. -/
theorem opcodeTable_disjoint :
    ∀ r ∈ opcodeTable, ∀ q ∈ opcodeTable, r ≠ q → r.bits &&& q.mask ≠ q.bits &&& r.mask := by decide

/-- Settles O2: a selected row fixes the word up to its operand, and no two rows agree on the bits both look at. -/
theorem decodingIsTheOpcodeMap : Obligations.DecodingIsTheOpcodeMap := by
  refine fun w => ⟨⟨?_, ?_⟩, fun r hr q hq hwr hwq => ?_, fun i => decode_selects_named_row⟩
  · rintro ⟨i, hd⟩
    obtain ⟨r, hr, _, hsel⟩ := decode_selects_named_row hd
    exact ⟨r, hr, hsel⟩
  · rintro ⟨r, hr, hsel⟩
    exact decode_of_row hr hsel
  · have agree : r.bits &&& q.mask = q.bits &&& r.mask := by
      rw [← hwr, ← hwq, BitVec.and_assoc, BitVec.and_assoc, BitVec.and_comm r.mask]
    exact Classical.byContradiction fun hne => opcodeTable_disjoint r hr q hq hne agree

/-- Settles O3: the twelve words, by evaluating the decoder. -/
theorem specWordsDecode : Obligations.SpecWordsDecode := by
  unfold Obligations.SpecWordsDecode
  decide

end Sys2Proof
end

section
/-! PROOFS. The Tone Source: segment lengths, the square wave, phase reset in a list of segments, amplitude
(40_tone_source.md R43 to R48). -/

namespace Sys2Proof.Machine

/-! ### Lengths -/

theorem toneDur_lt (s : State) : toneDur s < 65536 := s.dur.isLt

/-- Settles O4: the quotient of R43 is `64 * d`, and a DUR has 16 bits. -/
theorem segmentLengthIs64PerMillisecond : Obligations.SegmentLengthIs64PerMillisecond := by
  refine ⟨fun d => ⟨?_, segLen_eq d⟩, fun p f d => samples_length p ⟨f, d⟩, by decide, fun s => ?_⟩
  · rw [segLen_eq, Config.FS]
    omega
  · have := toneDur_lt s
    rw [segLen_eq]
    omega

/-! ### The square wave -/

theorem sq_firstHalf {f k : Nat} (h : 2 * (k * f % 64000) < 64000) (p : Sign) : sq p f k = p := if_pos h

theorem sq_secondHalf {f k : Nat} (h : 64000 ≤ 2 * (k * f % 64000)) (p : Sign) : sq p f k = p.flip :=
  if_neg (Nat.not_lt_of_le h)

@[simp] theorem sq_zero (p : Sign) (f : Nat) : sq p f 0 = p := sq_firstHalf (by simp) p

theorem sq_F1 (p : Sign) (k : Nat) : sq p 1000 k = if k % 64 < 32 then p else p.flip :=
  sq_of_wholeCycle (h := 32) rfl p k

theorem sq_F2 (p : Sign) (k : Nat) : sq p 2000 k = if k % 32 < 16 then p else p.flip :=
  sq_of_wholeCycle (h := 16) rfl p k

/-- Settles O5: R44's two branches, and its reduction for the two carriers, whose cycles are 64 and 32 samples. -/
theorem squareWaveHalves : Obligations.SquareWaveHalves := fun p _ k =>
  ⟨fun h => sq_firstHalf h p, fun h => sq_secondHalf h p, sq_F1 p k, sq_F2 p k⟩

theorem sq_mod (p : Sign) (f k : Nat) : sq p f k = sq p (f % 64000) k := by
  rw [sq, sq, Config.FS, Nat.mul_mod_mod]

/-- Settles O6: the phase is taken modulo the sample rate; 32000 Hz has a cycle of two samples. -/
theorem frequencyActsModuloTheSampleRate : Obligations.FrequencyActsModuloTheSampleRate := by
  refine fun p f k => ⟨sq_mod p f k, fun h => ?_, sq_mod p 65535 k, ?_⟩
  · rw [sq_mod, h]
    exact sq_firstHalf (by simp) p
  · rw [sq_of_wholeCycle (h := 1) rfl]
    simp only [Nat.mul_one, Nat.lt_one_iff]

/-! ### Phase reset -/

/-- Sample `k` of a segment that stands anywhere in a list of segments. -/
theorem markedSegs_getElem? (p : Sign) (before after : List Seg) (g : Seg) {k : Nat} (hk : k < segLen g.dur) :
    (markedSegs p (before ++ g :: after))[(markedSegs p before).length + k]? =
      some ⟨sq p g.freq k, decide (k = 0)⟩ := by
  have inside : k < (mark (samples p g)).length := by rwa [mark_length, samples_length]
  rw [markedSegs_append, markedSegs_cons, List.getElem?_append_right (Nat.le_add_right _ _), Nat.add_sub_cancel_left,
    List.getElem?_append_left inside, mark_samples_getElem? p g hk]

/-- Sample `k` of the first segment of a list. -/
theorem markedSegs_getElem?_first (p : Sign) (g : Seg) (after : List Seg) {k : Nat} (hk : k < segLen g.dur) :
    (markedSegs p (g :: after))[k]? = some ⟨sq p g.freq k, decide (k = 0)⟩ := by
  simpa using markedSegs_getElem? p [] after g hk

/-- Settles O7: a segment's samples are computed from its own index, wherever it stands. -/
theorem everySegmentStartsAtPhaseZero : Obligations.EverySegmentStartsAtPhaseZero := by
  intro p before after g k hk
  exact ⟨markedSegs_getElem? p before after g (by rwa [segLen_eq]), sq_zero p g.freq⟩

/-! ### Amplitude -/

theorem sampleValue_eq (v : Sign) : sampleValue v = if v = .pos then 1 / 5 else -1 / 5 := by
  cases v with
  | pos => rfl
  | neg =>
    rw [if_neg (by decide)]
    decide +kernel

/-- Settles O8: the two values, the two codes, and the comparison with a fifth of either full scale. -/
theorem sampleMagnitudeIsAmp : Obligations.SampleMagnitudeIsAmp := by
  refine ⟨sampleValue_eq, by decide, ?_⟩
  decide +kernel

end Sys2Proof.Machine
end

section
/-! PROOFS. Where the two bit encodings first differ (41_bit_encoder.md R50). -/

namespace Sys2Proof.Machine

/-- While the first pulse of a bit lasts, its pairs are those of the high carrier. -/
theorem encodeBit_pairs_high (p : Sign) (b : Bit) {k : Nat} (hk : k < segLen (bitSeg b 0).dur) :
    (markedSegs p (encodeBit b))[k]? = some ⟨sq p 2000 k, decide (k = 0)⟩ := by
  rw [encodeBit_eq]
  exact markedSegs_getElem?_first p (bitSeg b 0) [bitSeg b 1] hk

/-- After it come those of the low carrier, from phase 0. -/
theorem encodeBit_pairs_low (p : Sign) (b : Bit) {k : Nat} (hk : k < segLen (bitSeg b 1).dur) :
    (markedSegs p (encodeBit b))[segLen (bitSeg b 0).dur + k]? = some ⟨sq p 1000 k, decide (k = 0)⟩ := by
  have before : (markedSegs p [bitSeg b 0]).length = segLen (bitSeg b 0).dur := by simp
  rw [encodeBit_eq, ← before]
  exact markedSegs_getElem? p [bitSeg b 0] [] (bitSeg b 1) hk

/-- Bit 0 is at its high carrier up to index 383. -/
theorem encodeBit_zero_high (p : Sign) {k : Nat} (hk : k < 384) :
    (markedSegs p (encodeBit 0#1))[k]? = some ⟨sq p 2000 k, decide (k = 0)⟩ := encodeBit_pairs_high p 0#1 hk

/-- Bit 1 is at its high carrier up to index 191 and then starts its low one. -/
theorem encodeBit_one_high (p : Sign) {k : Nat} (hk : k < 192) :
    (markedSegs p (encodeBit 1#1))[k]? = some ⟨sq p 2000 k, decide (k = 0)⟩ := encodeBit_pairs_high p 1#1 hk

theorem encodeBit_one_low (p : Sign) {k : Nat} (hk : k < 384) :
    (markedSegs p (encodeBit 1#1))[192 + k]? = some ⟨sq p 1000 k, decide (k = 0)⟩ := encodeBit_pairs_low p 1#1 hk

theorem encodeBit_freqs (b : Bit) : (encodeBit b).map (fun g => g.freq) = [2000, 1000] := by
  rw [encodeBit_eq]
  rfl

/-- Settles O10: up to index 191 both bits are at the high carrier; then bit 1 starts the low one, and for 16 samples more
both carriers are in their first half-cycle. -/
theorem bitEncodingsDiffer : Obligations.BitEncodingsDiffer := by
  refine ⟨encodeBit_freqs, fun p => ⟨fun k hk => ?_, ?_, ?_, fun k hk => ?_, ?_, ?_⟩⟩
  · rw [encodeBit_zero_high p (by omega), encodeBit_one_high p hk]
  · simp [encodeBit_zero_high, sq_F2]
  · exact (encodeBit_one_low p (k := 0) (by omega)).trans (by simp)
  · rw [List.getElem?_map, List.getElem?_map, encodeBit_zero_high p (by omega)]
    rcases Nat.lt_or_ge k 192 with hlt | hge
    · rw [encodeBit_one_high p hlt]
    · obtain ⟨j, rfl⟩ := Nat.exists_eq_add_of_le hge
      have hhigh : (192 + j) % 32 < 16 := by omega
      have hlow : j % 64 < 32 := by omega
      simp [encodeBit_one_low p (k := j) (by omega), sq_F1, sq_F2, hhigh, hlow]
  · simp [encodeBit_zero_high, sq_F2]
  · exact (encodeBit_one_low p (k := 16) (by omega)).trans (by simp [sq_F1])

end Sys2Proof.Machine
end

section
/-! PROOFS. The structure of a byte encoding, segment by segment, and reading the byte back (42_byte_encoder.md R53). -/

namespace Sys2Proof.Machine

/-! ### Lists of blocks of one length -/

theorem length_flatMap_blocks {α β : Type} {f : α → List β} {n : Nat} (hf : ∀ a, (f a).length = n) (l : List α) :
    (l.flatMap f).length = n * l.length := by
  induction l with
  | nil => rfl
  | cons a l ih =>
    rw [List.flatMap_cons, List.length_append, hf, ih, List.length_cons, Nat.mul_succ, Nat.add_comm]

/-- Element `k` of a concatenation of blocks of `n` elements: element `k % n` of block `k / n`. -/
theorem getElem?_flatMap_blocks {α β : Type} {f : α → List β} {n : Nat} (hn : 0 < n) (hf : ∀ a, (f a).length = n)
    (l : List α) (k : Nat) : (l.flatMap f)[k]? = l[k / n]?.bind (fun a => (f a)[k % n]?) := by
  induction l generalizing k with
  | nil => simp
  | cons a l ih =>
    rw [List.flatMap_cons]
    rcases Nat.lt_or_ge k n with hlt | hge
    · rw [List.getElem?_append_left (by rwa [hf]), Nat.div_eq_of_lt hlt, Nat.mod_eq_of_lt hlt]
      rfl
    · obtain ⟨j, rfl⟩ := Nat.exists_eq_add_of_le hge
      rw [List.getElem?_append_right (by rwa [hf]), hf, Nat.add_sub_cancel_left, ih, Nat.add_div_left j hn,
        Nat.add_mod_left]
      rfl

theorem getD_of_lt {α : Type} {l : List α} {i : Nat} (h : i < l.length) (d : α) : l.getD i d = l[i] := by
  rw [List.getD_eq_getElem?_getD, List.getElem?_eq_getElem h, Option.getD_some]

/-! ### Segments of a byte -/

@[simp] theorem encodeByte_length (x : Byte) : (encodeByte x).length = 20 :=
  length_flatMap_blocks (fun n => encodeBit_length (slot x n)) (List.range 10)

theorem encodeBit_getElem? (b : Bit) {k : Nat} (hk : k < 2) : (encodeBit b)[k]? = some (bitSeg b k) := by
  rw [encodeBit_eq]
  obtain rfl | rfl : k = 0 ∨ k = 1 := by omega
  · rfl
  · rfl

/-- Segment `j` of a byte is what the closed form says. -/
theorem encodeByte_getElem? (x : Byte) {j : Nat} (hj : j < 20) : (encodeByte x)[j]? = some (byteSeg x j) := by
  have inRange : (List.range 10)[j / 2]? = some (j / 2) := List.getElem?_range (by omega)
  rw [encodeByte_eq_flatMap_slots, getElem?_flatMap_blocks (by decide) (fun n => encodeBit_length (slot x n)), inRange]
  exact encodeBit_getElem? (slot x (j / 2)) (Nat.mod_lt j (by decide))

/-- The closed form, with its carriers and pulse lengths. -/
theorem byteSeg_eq (x : Byte) (j : Nat) :
    byteSeg x j = if j % 2 = 0 then ⟨2000, if slot x (j / 2) = 0#1 then 6 else 3⟩
      else ⟨1000, if slot x (j / 2) = 0#1 then 3 else 6⟩ := rfl

theorem encodeByte_startBit (x : Byte) : (encodeByte x).take 2 = [⟨2000, 6⟩, ⟨1000, 3⟩] := by
  rw [encodeByte_eq_append_bits]
  simp only [List.append_assoc]
  exact List.take_left' (encodeBit_length 0#1)

theorem encodeByte_stopBit (x : Byte) : (encodeByte x).drop 18 = [⟨2000, 3⟩, ⟨1000, 6⟩] := by
  rw [encodeByte_eq_append_bits]
  exact List.drop_left' (by simp)

theorem encodeByte_dur_sum (x : Byte) : ((encodeByte x).map (fun g => g.dur)).sum = 90 := by
  simp [encodeByte_eq_append_bits, encodeBit_dur_sum]

/-- The samples of a list of segments: 64 for each millisecond. -/
theorem sum_segLen (gs : List Seg) :
    (gs.map (fun g => segLen g.dur)).sum = 64 * (gs.map (fun g => g.dur)).sum := by
  rw [← markedSegs_length .pos, markedSegs_length_eq_dur]

/-! ### Sample offsets in a byte -/

/-- The sample offset of segment `j` (R53): 576 samples for each slot before it, and its slot's first pulse if it is the
second one. -/
def byteOffset (x : Byte) (j : Nat) : Nat :=
  576 * (j / 2) + if j % 2 = 0 then 0 else if slot x (j / 2) = 0#1 then 384 else 192

theorem byteOffset_succ (x : Byte) (j : Nat) : byteOffset x (j + 1) = byteOffset x j + segLen (byteSeg x j).dur := by
  rw [segLen_eq, byteSeg_eq, byteOffset, byteOffset]
  rcases Nat.mod_two_eq_zero_or_one j with heven | hodd
  · have hdiv : (j + 1) / 2 = j / 2 := by omega
    have hmod : (j + 1) % 2 = 1 := by omega
    by_cases hslot : slot x (j / 2) = 0#1 <;> simp [heven, hdiv, hmod, hslot]
  · have hdiv : (j + 1) / 2 = j / 2 + 1 := by omega
    have hmod : (j + 1) % 2 = 0 := by omega
    by_cases hslot : slot x (j / 2) = 0#1 <;> simp [hodd, hdiv, hmod, hslot] <;> omega

theorem encodeByte_take_sum (x : Byte) {j : Nat} (hj : j ≤ 20) :
    (((encodeByte x).take j).map (fun g => segLen g.dur)).sum = byteOffset x j := by
  induction j with
  | zero => rfl
  | succ j ih =>
    rw [List.take_add_one, encodeByte_getElem? x (by omega), List.map_append, List.sum_append, ih (by omega),
      byteOffset_succ]
    simp

/-- Every segment of a byte starts at POL0 with the flag. -/
theorem encodeByte_pairs_start (p : Sign) (x : Byte) {j : Nat} (hj : j < 20) :
    (markedSegs p (encodeByte x))[byteOffset x j]? = some ⟨p, true⟩ := by
  have split : (encodeByte x).take j ++ byteSeg x j :: (encodeByte x).drop (j + 1) = encodeByte x := by
    obtain ⟨hlt, hseg⟩ := List.getElem?_eq_some_iff.mp (encodeByte_getElem? x hj)
    rw [← hseg, ← List.drop_eq_getElem_cons hlt, List.take_append_drop]
  have start := markedSegs_getElem? p ((encodeByte x).take j) ((encodeByte x).drop (j + 1)) (byteSeg x j)
    (byteSeg_len_pos x j)
  rw [split, markedSegs_length, encodeByte_take_sum x (Nat.le_of_lt hj)] at start
  simpa using start

/-- Settles O12: twenty segments by the closed form, their lengths, and the offsets as sums of lengths. -/
theorem byteEncodingStructure : Obligations.ByteEncodingStructure := by
  intro x
  have samples_sum : ((encodeByte x).map (fun g => segLen g.dur)).sum = 5760 := by
    rw [sum_segLen, encodeByte_dur_sum]
  exact ⟨encodeByte_length x, fun j hj => encodeByte_getElem? x hj, fun j _ => byteSeg_eq x j, encodeByte_startBit x,
    encodeByte_stopBit x, encodeByte_dur_sum x, samples_sum, fun j hj => encodeByte_take_sum x (Nat.le_of_lt hj),
    fun p j hj => encodeByte_pairs_start p x hj⟩

/-! ### Reading the byte back -/

/-- The first pulse of a data slot is short exactly when its bit is 1. -/
theorem dataBit_eq_shortPulse (x : Byte) {n : Nat} (hn : n < 8) :
    x.getLsbD (7 - n) = ((encodeByte x)[2 * n + 2]?.map (fun g => g.dur) == some 3) := by
  have hdiv : (2 * n + 2) / 2 = n + 1 := by omega
  have hslot : slot x (n + 1) = BitVec.ofBool (x.getLsbD (7 - n)) := by
    rw [slot_data x (by omega) (by omega), Nat.succ_sub_succ_eq_sub]
  rw [encodeByte_getElem? x (by omega), byteSeg_eq, hdiv, hslot, if_pos (by omega)]
  cases x.getLsbD (7 - n) <;> rfl

/-- Settles O13: every data bit is read from its slot, so equal encodings have equal bits. -/
theorem byteEncodingIsInjective : Obligations.ByteEncodingIsInjective := by
  refine ⟨fun x y h => BitVec.eq_of_getLsbD_eq fun i hi => ?_, fun x n hn => dataBit_eq_shortPulse x hn⟩
  have hx := dataBit_eq_shortPulse x (n := 7 - i) (by omega)
  have hy := dataBit_eq_shortPulse y (n := 7 - i) (by omega)
  rw [h, ← hy] at hx
  rwa [show 7 - (7 - i) = i by omega] at hx

end Sys2Proof.Machine
end

section
/-! PROOFS. The frame: its closed form, its sizes, and the segment lists of all operations (43_frame_assembler.md R56, R59,
R60; 44_sequencer_and_stream.md R66). -/

namespace Sys2Proof.Machine

/-! ### The closed form of a frame -/

theorem encodeBytes_length (xs : List Byte) : (xs.flatMap encodeByte).length = 20 * xs.length :=
  length_flatMap_blocks encodeByte_length xs

/-- Segment `k` of a row of bytes: segment `k % 20` of byte `k / 20`. -/
theorem encodeBytes_getElem? (xs : List Byte) {k : Nat} (hk : k < 20 * xs.length) :
    (xs.flatMap encodeByte)[k]? = some (byteSeg (xs.getD (k / 20) 0x00#8) (k % 20)) := by
  have inside : k / 20 < xs.length := by omega
  rw [getElem?_flatMap_blocks (by decide) encodeByte_length, List.getElem?_eq_getElem inside, getD_of_lt inside]
  exact encodeByte_getElem? _ (Nat.mod_lt k (by decide))

theorem frame_length (h data : List Byte) (hh : h.length = 7) : (frame h data).length = 143 + 20 * data.length := by
  simp only [frame, List.length_append, encodeBytes_length, hh, List.length_singleton]
  omega

theorem frame_eq (h data : List Byte) :
    frame h data = leadSeg :: (h.flatMap encodeByte ++ midSeg :: (data.flatMap encodeByte ++ [trailSeg])) := by
  simp [frame]

/-- R60: the five ranges of the closed form are the five parts of the list. -/
theorem frame_getElem? {h data : List Byte} (hh : h.length = 7) {k : Nat} (hk : k < 143 + 20 * data.length) :
    (frame h data)[k]? = some (frameSegAt h data.length (fun j => data.getD j 0x00#8) k) := by
  have hlen : (h.flatMap encodeByte).length = 140 := by rw [encodeBytes_length, hh]
  have dlen := encodeBytes_length data
  rw [frame_eq, frameSegAt]
  obtain rfl | ⟨j, rfl⟩ : k = 0 ∨ ∃ j, k = j + 1 := by cases k <;> simp
  · rfl
  rw [List.getElem?_cons_succ, if_neg (Nat.succ_ne_zero j), Nat.add_sub_cancel]
  rcases Nat.lt_or_ge j 140 with hj | hj
  · rw [List.getElem?_append_left (by omega), if_pos (by omega)]
    exact encodeBytes_getElem? h (by omega)
  rw [List.getElem?_append_right (by omega), hlen, if_neg (by omega)]
  obtain rfl | ⟨m, rfl⟩ : j = 140 ∨ ∃ m, j = m + 141 := by
    rcases Nat.eq_or_lt_of_le hj with rfl | hgt
    · exact .inl rfl
    · exact .inr ⟨j - 141, by omega⟩
  · rfl
  rw [show m + 141 - 140 = m + 1 by omega, List.getElem?_cons_succ, if_neg (by omega),
    show m + 141 + 1 - 142 = m by omega]
  rcases Nat.lt_or_ge m (20 * data.length) with hm | hm
  · rw [List.getElem?_append_left (by omega), if_pos (by omega)]
    exact encodeBytes_getElem? data hm
  · obtain rfl : m = 20 * data.length := by omega
    rw [List.getElem?_append_right (by omega), if_neg (by omega), dlen, Nat.sub_self]
    rfl

/-- Settles O14: the closed form, once written out and once as the sequencer's function. -/
theorem frameClosedFormAgrees : Obligations.FrameClosedFormAgrees := fun _ _ _ hh hk =>
  ⟨frame_getElem? hh hk, frame_getElem? hh hk⟩

/-! ### Sizes -/

theorem mem_encodeByte {g : Seg} {x : Byte} (h : g ∈ encodeByte x) : ∃ b k, g = bitSeg b k := by
  obtain ⟨n, _, hg⟩ := List.mem_flatMap.mp h
  simp only [encodeBit_eq, List.mem_cons, List.not_mem_nil, or_false] at hg
  rcases hg with rfl | rfl
  · exact ⟨_, 0, rfl⟩
  · exact ⟨_, 1, rfl⟩

/-- A pulse lasts 3 or 6 ms and holds a whole number of cycles. -/
theorem bitSeg_dur (b : Bit) (k : Nat) : (bitSeg b k).dur = 3 ∨ (bitSeg b k).dur = 6 := by
  rw [bitSeg]
  by_cases hk : k = 0 <;> by_cases hb : b = 0#1 <;> simp [hk, hb, Config.T_LONG, Config.T_SHORT]

theorem bitSeg_cycles (b : Bit) (k : Nat) : (bitSeg b k).freq * (bitSeg b k).dur % 1000 = 0 := by
  have hfreq : (bitSeg b k).freq = 1000 ∨ (bitSeg b k).freq = 2000 := by
    rw [bitSeg]
    by_cases hk : k = 0 <;> simp [hk, Config.F1, Config.F2]
  rcases hfreq with h | h <;> rw [h] <;> omega

theorem mem_frame {g : Seg} {h data : List Byte} (hg : g ∈ frame h data) :
    g = leadSeg ∨ g = midSeg ∨ g = trailSeg ∨ ∃ b k, g = bitSeg b k := by
  simp only [frame, List.mem_append, List.mem_singleton, List.mem_flatMap] at hg
  rcases hg with (((hg | ⟨x, _, hx⟩) | hg) | ⟨x, _, hx⟩) | hg
  · exact .inl hg
  · exact .inr (.inr (.inr (mem_encodeByte hx)))
  · exact .inr (.inl hg)
  · exact .inr (.inr (.inr (mem_encodeByte hx)))
  · exact .inr (.inr (.inl hg))

theorem frame_seg_wholeCycles {g : Seg} {h data : List Byte} (hg : g ∈ frame h data) :
    0 < segLen g.dur ∧ g.freq * g.dur % 1000 = 0 := by
  rcases mem_frame hg with rfl | rfl | rfl | ⟨b, k, rfl⟩
  · decide
  · decide
  · decide
  · exact ⟨bitSeg_len_pos b k, bitSeg_cycles b k⟩

theorem count_leadSeg_encodeBytes (xs : List Byte) : (xs.flatMap encodeByte).count leadSeg = 0 := by
  refine List.count_eq_zero.mpr fun hmem => ?_
  obtain ⟨x, _, hx⟩ := List.mem_flatMap.mp hmem
  obtain ⟨b, k, heq⟩ := mem_encodeByte hx
  have hdur : (bitSeg b k).dur = 4000 := by rw [← heq]; rfl
  have := bitSeg_dur b k
  omega

theorem frame_count_lead (h data : List Byte) : (frame h data).count leadSeg = 1 := by
  have hmid : [midSeg].count leadSeg = 0 := by decide
  have htrail : [trailSeg].count leadSeg = 0 := by decide
  simp only [frame, List.count_append, count_leadSeg_encodeBytes, hmid, htrail]
  decide

theorem encodeBytes_dur_sum (xs : List Byte) : ((xs.flatMap encodeByte).map (fun g => g.dur)).sum = 90 * xs.length := by
  induction xs with
  | nil => rfl
  | cons x xs ih =>
    rw [List.flatMap_cons, List.map_append, List.sum_append, encodeByte_dur_sum, ih, List.length_cons]
    omega

theorem frame_dur_sum (h data : List Byte) (hh : h.length = 7) :
    ((frame h data).map (fun g => g.dur)).sum = 8630 + 90 * data.length := by
  have hlead : ([leadSeg].map (fun g => g.dur)).sum = 4000 := rfl
  have hmid : ([midSeg].map (fun g => g.dur)).sum = 2000 := rfl
  have htrail : ([trailSeg].map (fun g => g.dur)).sum = 2000 := rfl
  simp only [frame, List.map_append, List.sum_append, encodeBytes_dur_sum, hh, hlead, hmid, htrail]
  omega

theorem frame_pairs_length (p : Sign) (h data : List Byte) (hh : h.length = 7) :
    (markedSegs p (frame h data)).length = 552320 + 5760 * data.length := by
  rw [markedSegs_length_eq_dur, frame_dur_sum h data hh]
  omega

/-- Settles O15: the sizes of the five parts added up; a pulse of a byte is no lead sync. -/
theorem frameSizes : Obligations.FrameSizes := by
  intro h data hh
  exact ⟨rfl, frame_count_lead h data, frame_length h data hh, frame_pairs_length .pos h data hh,
    frame_dur_sum h data hh, fun g hg => frame_seg_wholeCycles hg, fun h4 => by rw [frame_length h data hh, h4]⟩

/-! ### The segment list of an operation -/

/-- The closed form reads the data bytes below the count alone. -/
theorem frameSegAt_congr {h : List Byte} {len : Nat} {d e : Nat → Byte} (hde : ∀ j < len, d j = e j) (k : Nat) :
    frameSegAt h len d k = frameSegAt h len e k := by
  rw [frameSegAt, frameSegAt]
  refine ite_congr rfl (fun _ => rfl) fun _ => ite_congr rfl (fun _ => rfl) fun h140 =>
    ite_congr rfl (fun _ => rfl) fun h141 => ite_congr rfl (fun hdata => ?_) fun _ => rfl
  rw [hde ((k - 142) / 20) (by omega)]

@[simp] theorem frameHeader_length (s : State) : (frameHeader s).length = 7 := Vector.length_toList

@[simp] theorem frameData_length (s : State) : (frameData s).length = frameCount s := by simp [frameData]

theorem frameData_getD (s : State) {j : Nat} (hj : j < frameCount s) : (frameData s).getD j 0x00#8 = dmemByte s j := by
  rw [getD_of_lt (by simpa using hj)]
  simp [frameData]

theorem segs_length (i : Instr) (s : State) : (segs i s).length = nseg i s := by
  cases i with
  | bit b => exact encodeBit_length b
  | byte x => exact encodeByte_length x
  | frame => exact (frame_length _ _ (frameHeader_length s)).trans (by rw [frameData_length]; rfl)
  | _ => rfl

/-- The list and the function the sequencer computes agree. -/
theorem segs_getElem? (i : Instr) (s : State) {k : Nat} (hk : k < nseg i s) : (segs i s)[k]? = some (segAt i s k) := by
  cases i with
  | bit b => exact encodeBit_getElem? b hk
  | byte x => exact encodeByte_getElem? x hk
  | frame =>
    refine (frame_getElem? (frameHeader_length s) (by rwa [frameData_length])).trans (congrArg some ?_)
    rw [frameData_length]
    exact frameSegAt_congr (fun j hj => frameData_getD s hj) k
  | _ =>
    obtain rfl : k = 0 := Nat.lt_one_iff.mp hk
    rfl

/-- Settles O16: the length and the elements of each operation's list. -/
theorem segmentListsAgree : Obligations.SegmentListsAgree := fun i s =>
  ⟨segs_length i s, fun _ hk => segs_getElem? i s hk⟩

/-- A segment of the list is one the sequencer computes. -/
theorem mem_segs {i : Instr} {s : State} {g : Seg} (hg : g ∈ segs i s) : ∃ k < nseg i s, g = segAt i s k := by
  obtain ⟨k, hk⟩ := List.mem_iff_getElem?.mp hg
  have hlt : k < nseg i s := by
    rw [← segs_length]
    exact (List.getElem?_eq_some_iff.mp hk).1
  rw [segs_getElem? i s hlt] at hk
  exact ⟨k, hlt, (Option.some.inj hk).symm⟩

end Sys2Proof.Machine
end

section
/-! PROOFS. The stream of an operation: its length, its start flags, what it depends on, and the frame as a concatenation
(44_sequencer_and_stream.md R73, R75, R76; 00_scope.md R5). -/

namespace Sys2Proof.Machine

/-! ### Lengths -/

theorem stream_length (i : Instr) (s : State) : (stream i s).length = stepsOf i s := markedSegs_length _ _

/-- 64 pairs for each millisecond of an operation's segments. -/
theorem stream_length_eq_dur (i : Instr) (s : State) :
    (stream i s).length = 64 * ((segs i s).map (fun g => g.dur)).sum := markedSegs_length_eq_dur _ _

theorem stream_frame_length (s : State) : (stream .frame s).length = 552320 + 5760 * s.dlen.toNat := by
  have := frame_pairs_length s.params.pol0 (frameHeader s) (frameData s) (frameHeader_length s)
  rwa [frameData_length] at this

/-! ### Start flags -/

/-- A segment that is not empty bears one flag. -/
theorem mark_countP_sos {l : List Sign} (hl : l ≠ []) : (mark l).countP (fun q => q.sos) = 1 := by
  cases l with
  | nil => exact absurd rfl hl
  | cons v vs => simp [mark, List.countP_map, Function.comp_def]

theorem markedSegs_countP_sos (p : Sign) {gs : List Seg} (hgs : ∀ g ∈ gs, 0 < segLen g.dur) :
    (markedSegs p gs).countP (fun q => q.sos) = gs.length := by
  induction gs with
  | nil => rfl
  | cons g gs ih =>
    obtain ⟨hg, hrest⟩ := List.forall_mem_cons.mp hgs
    have nonempty : samples p g ≠ [] := List.ne_nil_of_length_pos (by rwa [samples_length])
    rw [markedSegs_cons, List.countP_append, mark_countP_sos nonempty, ih hrest, List.length_cons, Nat.add_comm]

/-- Only an empty tone has an empty segment. -/
theorem segAt_nonempty {i : Instr} {s : State} (h : i ≠ .tone ∨ s.dur ≠ 0#16) (k : Nat) :
    0 < segLen (segAt i s k).dur := by
  refine Nat.pos_of_ne_zero fun h0 => ?_
  obtain ⟨htone, hdur⟩ := (segAt_len_eq_zero i s k).mp h0
  exact h.elim (absurd htone) (absurd hdur)

theorem segs_nonempty {i : Instr} {s : State} (h : i ≠ .tone ∨ s.dur ≠ 0#16) : ∀ g ∈ segs i s, 0 < segLen g.dur := by
  intro g hg
  obtain ⟨k, _, rfl⟩ := mem_segs hg
  exact segAt_nonempty h k

theorem stream_countP_sos {i : Instr} {s : State} (h : i ≠ .tone ∨ s.dur ≠ 0#16) :
    (stream i s).countP (fun q => q.sos) = nseg i s := by
  rw [stream, markedSegs_countP_sos _ (segs_nonempty h), segs_length]

/-- Settles O17: each operation's milliseconds, 64 samples in each, and one flag in each segment that is not empty. -/
theorem streamLengths : Obligations.StreamLengths := by
  intro s
  have tone_length : (stream .tone s).length = 64 * s.dur.toNat := by
    rw [stream_length_eq_dur]
    simp [segs, toneDur]
  refine ⟨tone_length, fun b => encodeBit_pairs_length _ b, fun x => ?_, ?_, ?_, ?_, stream_frame_length s,
    fun i => stream_length i s, fun i hi => stream_countP_sos hi, fun hd => ?_⟩
  · rw [stream_length_eq_dur, segs, encodeByte_dur_sum]
  · rw [stream_length_eq_dur]
    rfl
  · rw [stream_length_eq_dur]
    rfl
  · rw [stream_length_eq_dur]
    rfl
  · exact List.length_eq_zero_iff.mp (by rw [tone_length, hd]; rfl)

/-! ### What a stream depends on -/

theorem frameData_congr {s t : State} (hl : s.dlen = t.dlen)
    (hm : ∀ a, a < s.dlen.toNat → dmemByte s a = dmemByte t a) : frameData s = frameData t := by
  have hcount : frameCount s = frameCount t := congrArg BitVec.toNat hl
  rw [frameData, frameData, ← hcount]
  exact List.map_congr_left fun a ha => hm a (List.mem_range.mp ha)

/-- Settles O18: the segment list reads the operands its rule names; POL0 is all that the samples read besides. -/
theorem streamDependsOnOperandsOnly : Obligations.StreamDependsOnOperandsOnly := by
  intro i s t hpol htone hframe
  have same_segs : segs i s = segs i t := by
    cases i with
    | tone =>
      obtain ⟨hf, hd⟩ := htone rfl
      simp [segs, toneFreq, toneDur, hf, hd]
    | frame =>
      obtain ⟨hh, hl, hm⟩ := hframe rfl
      simp [segs, frameHeader, hh, frameData_congr hl hm]
    | _ => rfl
  rw [stream, stream, hpol, same_segs]

/-! ### The frame as a concatenation -/

theorem stream_bytes (s : State) (xs : List Byte) :
    markedSegs s.params.pol0 (xs.flatMap encodeByte) = xs.flatMap (fun x => stream (.byte x) s) :=
  List.flatMap_assoc

/-- Settles O19: the pairs of a concatenation of segment lists are the concatenation of their pairs. -/
theorem frameIsTheConcatenation : Obligations.FrameIsTheConcatenation := by
  refine fun s => ⟨?_, rfl⟩
  rw [← stream_bytes, ← stream_bytes]
  simp only [stream, segs, frame, markedSegs_append]

end Sys2Proof.Machine
end

section
/-! PROOFS. Issue: what an accepted command leaves, operation by operation (44_sequencer_and_stream.md R67), and the frame of
all seven. -/

namespace Sys2Proof.Machine

theorem nseg_pos (i : Instr) (s : State) : 0 < nseg i s := by
  cases i with
  | frame => exact Nat.lt_of_lt_of_le (by decide) (Nat.le_add_right 143 (20 * frameCount s))
  | _ => exact Nat.succ_pos _

/-- A command whose first segment is not empty leaves the block busy at position (0, 0). -/
theorem accept_nonempty {i : Instr} {s : State} (h : i ≠ .tone ∨ s.dur ≠ 0#16) :
    accept i s =
      { s with cmd := encode i, segi := 0#32, sn := 0#32, status := { s.status with busy := true } } := by
  have first : segLen (segAt i s 0).dur ≠ 0 := Nat.ne_of_gt (segAt_nonempty h 0)
  rw [accept, normalise_stay (by simpa using first)]
  simp [nseg_pos, setBusy, Status.setBusy, moveTo, latchCommand]

theorem exec_nonempty {i : Instr} {s : State} (hb : s.status.busy = false) (ho : operandsOk i s = true)
    (h : i ≠ .tone ∨ s.dur ≠ 0#16) :
    exec i s = .next
      { s with cmd := encode i, segi := 0#32, sn := 0#32, status := { s.status with busy := true } } := by
  rw [exec_accepted hb ho, accept_nonempty h]

/-- Settles O20: an empty tone is complete at issue, any other starts. -/
theorem toneIssue : Obligations.ToneIssue := by
  intro s hb hf
  have ho : operandsOk .tone s = true := (operandsOk_tone s).mpr hf
  refine ⟨fun hd => exec_nonempty hb ho (.inr hd), fun hd => ?_⟩
  rw [exec_accepted hb ho, accept_tone_empty hb hd, ← hb]

/-- Settles O21: BIT has no precondition and no empty segment. -/
theorem bitIssue : Obligations.BitIssue := fun _ _ hb => exec_nonempty hb rfl (.inl nofun)

/-- Settles O22: BYTE has no precondition and no empty segment. -/
theorem byteIssue : Obligations.ByteIssue := fun _ _ hb => exec_nonempty hb rfl (.inl nofun)

/-- Settles O23: the sync tones have no precondition and no empty segment. -/
theorem syncIssue : Obligations.SyncIssue := fun _ hb =>
  ⟨exec_nonempty hb rfl (.inl nofun), exec_nonempty hb rfl (.inl nofun), exec_nonempty hb rfl (.inl nofun)⟩

/-- Settles O24: the precondition of FRAME is the bound on DLEN, and no segment of a frame is empty. -/
theorem frameIssue : Obligations.FrameIssue := fun s hb hl =>
  exec_nonempty hb ((operandsOk_frame s).mpr hl) (.inl nofun)

/-- What a command can do: it is refused with E_BUSY or E_OPD, or an idle block accepts it. -/
theorem exec_cases {i : Instr} {s t : State} (h : exec i s = .next t) :
    (∃ f, (f = .eBusy ∨ f = .eOpd) ∧ t = raise f s) ∨
    (s.status.busy = false ∧ operandsOk i s = true ∧ t = accept i s) := by
  rw [exec_eq_issue] at h
  rcases issue_cases h with ⟨_, ht⟩ | ⟨hb, ho, ht⟩ | ⟨_, _, ht⟩
  · cases ht
    exact .inl ⟨.eBusy, .inl rfl, rfl⟩
  · cases ht
    exact .inr ⟨hb, ho, rfl⟩
  · cases ht
    exact .inl ⟨.eOpd, .inr rfl, rfl⟩

/-- Settles O25: a refusal writes its flag, an acceptance CMD, the position and BUSY. -/
theorem issueFrame : Obligations.IssueFrame := by
  intro i s t h
  rcases exec_cases h with ⟨f, hf, rfl⟩ | ⟨hb, _, rfl⟩
  · refine ⟨⟨rfl, rfl, rfl, rfl, rfl, fun _ => rfl⟩, ⟨rfl, rfl, rfl, rfl, rfl⟩, ?_, .inr ⟨rfl, rfl, rfl, raise_busy _ f⟩⟩
    rcases hf with rfl | rfl
    · exact ⟨rfl, rfl, rfl⟩
    · exact ⟨rfl, rfl, rfl⟩
  · exact ⟨⟨rfl, rfl, rfl, rfl, rfl, fun _ => rfl⟩, ⟨rfl, rfl, rfl, rfl, rfl⟩, ⟨rfl, rfl, rfl⟩,
      .inl ⟨rfl, rfl, hb, rfl, rfl⟩⟩

end Sys2Proof.Machine
end

section
/-! PROOFS. Two kinds of step, exactly: the host's command write (44_sequencer_and_stream.md R67) and a moment of the sink
(R69, R71). -/

namespace Sys2Proof.Machine

/-! ### The command write -/

/-- Writing a legal word is the operation it names, idle or busy. -/
theorem commandWrite_eq_exec {v : Word} {i : Instr} (hd : decode (v.setWidth 16) = .instr i) (s : State) :
    commandWrite v s = exec i s := by
  cases hb : s.status.busy with
  | true => rw [commandWrite_busy hb, exec_busy hb]
  | false => simp [commandWrite, hb, hd]

theorem step_host {s : State} (hn : nextTurn s = .host) : step s = hostTurn { s with schedule := s.schedule.tail } := by
  rw [step, hn]
  rfl

theorem hostTurn_command {s : State} {v : Word} {rest : List HostAct} {i : Instr}
    (hh : s.host = .txn (.regWrite 0x00 v) :: rest) (hd : decode (v.setWidth 16) = .instr i) :
    hostTurn s = exec i { s with host := rest } := by
  rw [hostTurn, hh]
  exact commandWrite_eq_exec hd { s with host := rest }

theorem step_command {s : State} {v : Word} {rest : List HostAct} {i : Instr} (hn : nextTurn s = .host)
    (hh : s.host = .txn (.regWrite 0x00 v) :: rest) (hd : decode (v.setWidth 16) = .instr i) :
    step s = exec i { s with host := rest, schedule := s.schedule.tail } := by
  rw [step_host hn]
  exact hostTurn_command hh hd

/-- Settles O31: the host's turn makes the write, and `withFetchWord` places such a turn. -/
theorem stepRunsTheDecodedInstruction : Obligations.StepRunsTheDecodedInstruction := by
  refine ⟨fun s v rest i => step_command, fun s w i hw hd => ?_⟩
  have low : (((BitVec.ofNat 16 (w % 2 ^ 16)).setWidth 32 : Word).setWidth 16 : CmdWord) = BitVec.ofNat 16 w := by
    rw [Nat.mod_eq_of_lt (show w < 2 ^ 16 from hw), BitVec.setWidth_setWidth_of_le _ (by decide), BitVec.setWidth_eq]
  exact step_command (s := s.withFetchWord 16 w) rfl rfl (by rw [low, hd])

/-! ### A moment of the sink -/

theorem transfer_idle {s : State} (hb : s.status.busy = false) : transfer s = .next s := by
  simp [transfer, hb]

/-- What a transfer of operation `i` makes of the state: the pair on offer is emitted and the position advances. -/
def afterTransfer (i : Instr) (s : State) : State :=
  advance i (segAt i s s.segi.toNat) (emit (offered (segAt i s s.segi.toNat) s) s)

theorem transfer_running {s : State} {i : Instr} (hb : s.status.busy = true) (hd : decode s.cmd = .instr i)
    (hn : s.segi.toNat < nseg i s) : transfer s = .next (afterTransfer i s) := by
  simp [transfer, hb, hd, hn, afterTransfer]

theorem step_sink_ready {s : State} (hn : nextTurn s = .sink true) :
    step s = transfer { s with schedule := s.schedule.tail, outReady := true } := by
  rw [step, hn]
  rfl

theorem nextTurn_scheduled {s : State} {t : Turn} {rest : List Turn} (h : s.schedule = t :: rest) : nextTurn s = t := by
  rw [nextTurn, h]

/-- Settles O32: a ready moment is a transfer of the block's current pair; an idle block and a sink that is not ready leave
the block alone. -/
theorem transferRule : Obligations.TransferRule := by
  refine fun s rest => ⟨fun i hs hb hd hn => ?_, fun hs hb => ?_, fun hs => ?_⟩
  · have same : ∀ k, segAt i { s with schedule := rest, outReady := true } k = segAt i s k :=
      segAt_congr rfl rfl rfl rfl rfl i
    rw [step_sink_ready (nextTurn_scheduled hs), hs, List.tail_cons]
    rw [transfer_running (s := { s with schedule := rest, outReady := true }) hb hd hn]
    simp only [afterTransfer, advance, offered, same, apply_ite Host.Outcome.next]
    rfl
  · rw [step_sink_ready (nextTurn_scheduled hs), hs, List.tail_cons]
    exact transfer_idle hb
  · rw [step, nextTurn_scheduled hs, hs]
    rfl

end Sys2Proof.Machine
end

section
/-! PROOFS. Where a transfer leaves the position: inside the same segment, at the start of a later one, or past the last
(44_sequencer_and_stream.md R68 to R70). -/

namespace Sys2Proof.Machine

/-! ### Position registers do not wrap -/

theorem toNat_succ {v : Word} {n : Nat} (h : v.toNat < n) (hn : n < 2 ^ 32) : (v + 1#32).toNat = v.toNat + 1 := by
  rw [BitVec.toNat_add]
  exact Nat.mod_eq_of_lt (by simpa using Nat.lt_of_le_of_lt h hn)

theorem frameSegAt_cases (h : List Byte) (len : Nat) (data : Nat → Byte) (k : Nat) :
    frameSegAt h len data k = leadSeg ∨ frameSegAt h len data k = midSeg ∨ frameSegAt h len data k = trailSeg ∨
      ∃ x j, frameSegAt h len data k = byteSeg x j := by
  unfold frameSegAt
  split
  · exact .inl rfl
  split
  · exact .inr (.inr (.inr ⟨_, _, rfl⟩))
  split
  · exact .inr (.inl rfl)
  split
  · exact .inr (.inr (.inr ⟨_, _, rfl⟩))
  · exact .inr (.inr (.inl rfl))

theorem bitSeg_dur_lt (b : Bit) (k : Nat) : (bitSeg b k).dur < 65536 := by
  have := bitSeg_dur b k
  omega

/-- No segment is longer than a DUR can say. -/
theorem segAt_dur_lt (i : Instr) (s : State) (k : Nat) : (segAt i s k).dur < 65536 := by
  cases i with
  | tone => exact toneDur_lt s
  | bit b => exact bitSeg_dur_lt b k
  | byte x => exact bitSeg_dur_lt _ _
  | lead => exact (by decide : leadSeg.dur < 65536)
  | mid => exact (by decide : midSeg.dur < 65536)
  | trail => exact (by decide : trailSeg.dur < 65536)
  | frame =>
    rw [segAt]
    rcases frameSegAt_cases (frameHeader s) (frameCount s) (dmemByte s) k with h | h | h | ⟨x, j, h⟩
    · rw [h]; decide
    · rw [h]; decide
    · rw [h]; decide
    · rw [h]; exact bitSeg_dur_lt _ _

theorem segAt_len_lt (i : Instr) (s : State) (k : Nat) : segLen (segAt i s k).dur < 2 ^ 32 := by
  have := segAt_dur_lt i s k
  rw [segLen_eq]
  omega

/-! ### normalise -/

theorem normalise_segi_toNat {i : Instr} {s : State} (ho : operandsOk i s = true) (hle : s.segi.toNat ≤ nseg i s) :
    (normalise i s).segi.toNat = stopAt i s := by
  obtain ⟨_, hstop, _, _⟩ := stopAt_spec hle
  exact Nat.mod_eq_of_lt (Nat.lt_of_le_of_lt hstop (nseg_lt ho))

theorem normalise_busy (i : Instr) (s : State) : (normalise i s).status.busy = decide (stopAt i s < nseg i s) := rfl

@[simp] theorem segAt_normalise (i j : Instr) (s : State) (k : Nat) : segAt j (normalise i s) k = segAt j s k :=
  segAt_congr rfl rfl rfl rfl rfl j k

@[simp] theorem segs_normalise (i j : Instr) (s : State) : segs j (normalise i s) = segs j s :=
  segs_congr rfl rfl rfl rfl rfl j

@[simp] theorem nseg_normalise (i j : Instr) (s : State) : nseg j (normalise i s) = nseg j s := nseg_congr rfl j

@[simp] theorem operandsOk_normalise (i j : Instr) (s : State) : operandsOk j (normalise i s) = operandsOk j s :=
  operandsOk_congr rfl rfl rfl j

/-- Operation `i` is under way (`runs`), or it has just completed: idle past its last segment (R70). -/
def Underway (i : Instr) (s : State) : Prop :=
  (s.status.busy = true ∧ runs i s) ∨
  (s.status.busy = false ∧ decode s.cmd = .instr i ∧ operandsOk i s = true ∧ s.segi.toNat = nseg i s ∧ s.sn = 0#32)

/-- `normalise` at the start of a segment, or past the last, leaves the operation under way or completed. -/
theorem normalise_underway {i : Instr} {s : State} (hd : decode s.cmd = .instr i) (ho : operandsOk i s = true)
    (hle : s.segi.toNat ≤ nseg i s) (hsn : s.sn = 0#32) : Underway i (normalise i s) := by
  obtain ⟨_, hto, _, hstop⟩ := stopAt_spec hle
  have hsegi := normalise_segi_toNat ho hle
  have hsn' : (normalise i s).sn = 0#32 := hsn
  rcases Nat.lt_or_eq_of_le hto with hlt | heq
  · refine .inl ⟨decide_eq_true hlt, hd, by simpa using ho, by simpa [hsegi] using hlt, ?_⟩
    simpa [hsegi, hsn'] using hstop hlt
  · exact .inr ⟨decide_eq_false (Nat.not_lt_of_le (Nat.le_of_eq heq.symm)), hd, by simpa using ho, by simpa [hsegi] using heq, hsn⟩

theorem accept_underway {i : Instr} {s : State} (ho : operandsOk i s = true) : Underway i (accept i s) :=
  normalise_underway (decode_encode i) (by simpa using ho) (Nat.zero_le _) rfl

/-! ### A transfer -/

theorem afterTransfer_inside {i : Instr} {s : State} (h : s.sn.toNat + 1 < segLen (segAt i s s.segi.toNat).dur) :
    afterTransfer i s = moveTo s.segi (s.sn + 1#32) (emit (offered (segAt i s s.segi.toNat) s) s) := if_pos h

/-- The last pair of the current segment is emitted and the position is at the start of the next one, if there is one. -/
def nextSegment (i : Instr) (s : State) : State :=
  moveTo (s.segi + 1#32) 0#32 (emit (offered (segAt i s s.segi.toNat) s) s)

theorem afterTransfer_atEnd {i : Instr} {s : State} (h : ¬ s.sn.toNat + 1 < segLen (segAt i s s.segi.toNat).dur) :
    afterTransfer i s = normalise i (nextSegment i s) := if_neg h

theorem nextSegment_segi {i : Instr} {s : State} (hr : runs i s) :
    (nextSegment i s).segi.toNat = s.segi.toNat + 1 := by
  obtain ⟨_, ho, hseg, _⟩ := hr
  exact toNat_succ hseg (nseg_lt ho)

/-- The next segment, or the end of the list, is a position at which `normalise` can start. -/
theorem nextSegment_ready {i : Instr} {s : State} (hr : runs i s) :
    decode (nextSegment i s).cmd = .instr i ∧ operandsOk i (nextSegment i s) = true ∧
      (nextSegment i s).segi.toNat ≤ nseg i (nextSegment i s) := by
  rw [nextSegment_segi hr]
  obtain ⟨hd, ho, hseg, _⟩ := hr
  exact ⟨hd, by simpa [nextSegment] using ho, by simpa [nextSegment] using Nat.succ_le_of_lt hseg⟩

/-- What a transfer writes: OUT, by the pair on offer, the position and BUSY. -/
theorem afterTransfer_frame (i : Instr) (s : State) :
    ∃ k n b, afterTransfer i s =
      { s with
        segi := k, sn := n, status := s.status.setBusy b
        out := s.out ++ [offered (segAt i s s.segi.toNat) s] } :=
  advance_frame i (segAt i s s.segi.toNat) (emit (offered (segAt i s s.segi.toNat) s) s)

theorem afterTransfer_out (i : Instr) (s : State) :
    (afterTransfer i s).out = s.out ++ [offered (segAt i s s.segi.toNat) s] := by
  obtain ⟨k, n, b, h⟩ := afterTransfer_frame i s
  rw [h]

@[simp] theorem afterTransfer_cmd (i : Instr) (s : State) : (afterTransfer i s).cmd = s.cmd := by
  obtain ⟨k, n, b, h⟩ := afterTransfer_frame i s
  rw [h]

@[simp] theorem segAt_afterTransfer (i j : Instr) (s : State) (k : Nat) : segAt j (afterTransfer i s) k = segAt j s k := by
  obtain ⟨n, m, b, h⟩ := afterTransfer_frame i s
  rw [h]
  exact segAt_congr rfl rfl rfl rfl rfl j k

@[simp] theorem nseg_afterTransfer (i j : Instr) (s : State) : nseg j (afterTransfer i s) = nseg j s := by
  obtain ⟨n, m, b, h⟩ := afterTransfer_frame i s
  rw [h]
  exact nseg_congr rfl j

theorem afterTransfer_underway {i : Instr} {s : State} (hb : s.status.busy = true) (hr : runs i s) :
    Underway i (afterTransfer i s) := by
  by_cases h : s.sn.toNat + 1 < segLen (segAt i s s.segi.toNat).dur
  · rw [afterTransfer_inside h]
    obtain ⟨hd, ho, hseg, hsn⟩ := hr
    have succ := toNat_succ hsn (segAt_len_lt _ _ _)
    exact .inl ⟨hb, hd, by simpa using ho, by simpa using hseg, by simpa [succ] using h⟩
  · rw [afterTransfer_atEnd h]
    obtain ⟨hd, ho, hle⟩ := nextSegment_ready hr
    exact normalise_underway hd ho hle rfl

end Sys2Proof.Machine
end

section
/-! PROOFS. What a step can do to the block, a case for each kind of effect: the invariant, the frozen operands and the
append-only OUT are read off it. -/

namespace Sys2Proof.Machine

/-! ### The kinds of effect -/

/-- Nothing changes but flags of STATUS and fields of the environment other than OUT. -/
structure Quiet (s t : State) : Prop where
  params : t.params = s.params
  cmd : t.cmd = s.cmd
  busy : t.status.busy = s.status.busy
  freq : t.freq = s.freq
  dur : t.dur = s.dur
  dlen : t.dlen = s.dlen
  hdr : t.hdr = s.hdr
  segi : t.segi = s.segi
  sn : t.sn = s.sn
  dmem : t.dmem = s.dmem
  out : t.out = s.out

/-- An operand register or a byte of DMEM is written. -/
structure OperandWrite (s t : State) : Prop where
  params : t.params = s.params
  cmd : t.cmd = s.cmd
  status : t.status = s.status
  segi : t.segi = s.segi
  sn : t.sn = s.sn
  out : t.out = s.out
  dmem : t.dmem = s.dmem ∨ ∃ a v, a < s.params.dmemSize.val ∧ t.dmem = Memory.store s.dmem a v

/-- What a step from `s` to `t` does; `u` is `s` once the turn and the action are taken off their lists. -/
inductive StepEffect (s t : State) : Prop
  | quiet (same : Quiet s t)
  | reset (u : State) (same : Quiet s u) (turn : nextTurn s = .host) (act : s.host.head? = some .reset)
      (eq : t = resetEvent u)
  | write (u : State) (same : Quiet s u) (idle : u.status.busy = false) (operand : OperandWrite u t)
  | issue (u : State) (i : Instr) (same : Quiet s u) (idle : u.status.busy = false) (ok : operandsOk i u = true)
      (eq : t = accept i u)
  | transfer (u : State) (i : Instr) (same : Quiet s u) (turn : nextTurn s = .sink true) (busy : u.status.busy = true)
      (dec : decode u.cmd = .instr i) (seg : u.segi.toNat < nseg i u) (eq : t = afterTransfer i u)

/-! ### Quiet effects -/

theorem Quiet.of_env {s : State} {st : Status} (hb : st.busy = s.status.busy) (reads : List ReadValue)
    (host : List HostAct) (schedule : List Turn) (ready : Bool) :
    Quiet s { s with status := st, reads := reads, host := host, schedule := schedule, outReady := ready } :=
  ⟨rfl, rfl, hb, rfl, rfl, rfl, rfl, rfl, rfl, rfl, rfl⟩

theorem Quiet.refl (s : State) : Quiet s s := .of_env rfl _ _ _ _

theorem Quiet.trans {s t u : State} (h : Quiet s t) (k : Quiet t u) : Quiet s u :=
  ⟨k.params.trans h.params, k.cmd.trans h.cmd, k.busy.trans h.busy, k.freq.trans h.freq, k.dur.trans h.dur,
    k.dlen.trans h.dlen, k.hdr.trans h.hdr, k.segi.trans h.segi, k.sn.trans h.sn, k.dmem.trans h.dmem, k.out.trans h.out⟩

theorem quiet_raise (f : Flag) (s : State) : Quiet s (raise f s) := .of_env (raise_busy s.status f) _ _ _ _

theorem quiet_clearFlags (v : Word) (s : State) : Quiet s (clearFlags v s) :=
  .of_env (writeOneToClear_busy s.status v) _ _ _ _

theorem quiet_returnRead (v : ReadValue) (s : State) : Quiet s (returnRead v s) := .of_env rfl _ _ _ _

theorem quiet_pollStatus (rest : List HostAct) (s : State) : Quiet s (pollStatus rest s) := by
  rw [pollStatus_eq]
  cases s.status.busy with
  | true => exact quiet_returnRead _ s
  | false => exact (Quiet.of_env rfl _ rest _ _ : Quiet s { s with host := rest }).trans (quiet_returnRead _ _)

/-! ### Classification -/

theorem hostTxn_effect {x : Txn} {s t : State} (h : hostTxn x s = .next t) :
    Quiet s t ∨ (s.status.busy = false ∧ OperandWrite s t) ∨
    (s.status.busy = false ∧ ∃ i, operandsOk i s = true ∧ t = accept i s) := by
  rcases hostTxn_cases h with ⟨f, h⟩ | ⟨f, v, h⟩ | ⟨v, h⟩ | h | ⟨v, _, h⟩ | ⟨i, v, _, hb, _, ho, h⟩ | ⟨hb, hw⟩
  · cases h
    exact .inl (quiet_raise f s)
  · cases h
    exact .inl ((quiet_raise f s).trans (quiet_returnRead v _))
  · cases h
    exact .inl (quiet_returnRead v s)
  · cases h
    exact .inl (.refl s)
  · cases h
    exact .inl (quiet_clearFlags v s)
  · cases h
    exact .inr (.inr ⟨hb, i, ho, rfl⟩)
  · refine .inr (.inl ⟨hb, ?_⟩)
    rcases hw with ⟨v, h⟩ | ⟨v, h⟩ | ⟨v, h⟩ | ⟨i, v, h⟩ | ⟨a, v, ha, h⟩
    case inr.inr.inr.inr =>
      cases h
      exact ⟨rfl, rfl, rfl, rfl, rfl, rfl, .inr ⟨a, v, ha, rfl⟩⟩
    all_goals
      cases h
      exact ⟨rfl, rfl, rfl, rfl, rfl, rfl, .inl rfl⟩

/-- Every step has one of the five effects. -/
theorem step_effect {s t : State} (h : step s = .next t) : StepEffect s t := by
  rcases step_cases s with ⟨hn, hs⟩ | ⟨hn, hs⟩ | ⟨hn, hs⟩
  · have taken (host : List HostAct) : Quiet s { s with schedule := s.schedule.tail, host := host } :=
      .of_env rfl _ _ _ _
    rw [hs] at h
    rcases hostTurn_cases { s with schedule := s.schedule.tail } with ⟨_, ht⟩ | ⟨x, rest, _, ht⟩ | ⟨rest, hh, ht⟩ |
      ⟨rest, _, ht⟩
    · cases ht.symm.trans h
      exact .quiet (taken s.host)
    · rcases hostTxn_effect (ht.symm.trans h) with hq | ⟨hb, hw⟩ | ⟨hb, i, ho, rfl⟩
      · exact .quiet ((taken rest).trans hq)
      · exact .write _ (taken rest) hb hw
      · exact .issue _ i (taken rest) hb ho rfl
    · cases ht.symm.trans h
      exact .reset _ (taken rest) hn (congrArg List.head? hh) rfl
    · cases ht.symm.trans h
      exact .quiet ((taken s.host).trans (quiet_pollStatus rest _))
  · cases hs.symm.trans h
    exact .quiet (.of_env rfl _ _ _ _)
  · have taken : Quiet s { s with schedule := s.schedule.tail, outReady := true } := .of_env rfl _ _ _ _
    rcases transfer_cases (hs.symm.trans h) with ⟨_, ht⟩ | ⟨_, _, ht⟩ | ⟨i, hb, hd, hseg, ht⟩
    · cases ht
      exact .quiet taken
    · cases ht
    · cases ht
      exact .transfer _ i taken hn hb hd hseg rfl

/-! ### What a quiet effect keeps -/

theorem Quiet.segAt_eq {s t : State} (h : Quiet s t) (i : Instr) (k : Nat) : segAt i t k = segAt i s k :=
  segAt_congr h.freq h.dur h.dlen h.hdr h.dmem i k

theorem Quiet.segs_eq {s t : State} (h : Quiet s t) (i : Instr) : segs i t = segs i s :=
  segs_congr h.freq h.dur h.dlen h.hdr h.dmem i

theorem Quiet.nseg_eq {s t : State} (h : Quiet s t) (i : Instr) : nseg i t = nseg i s := nseg_congr h.dlen i

theorem Quiet.runs_iff {s t : State} (h : Quiet s t) (i : Instr) : runs i t ↔ runs i s := by
  rw [runs, runs, h.cmd, operandsOk_congr h.freq h.dlen h.params, h.segi, h.nseg_eq, h.sn, h.segAt_eq]

theorem Quiet.inv {s t : State} (h : Quiet s t) (hs : Inv s) : Inv t := by
  simpa only [Inv, h.runs_iff, h.dmem, h.params, h.cmd, h.busy, h.sn] using hs

/-! ### Statements read off the classification -/

/-- Settles O37: the transfer alone appends, and it appends the pair on offer. -/
theorem outputOnlyByTransfers : Obligations.OutputOnlyByTransfers := by
  intro s t h
  cases step_effect h with
  | quiet same => exact .inl same.out
  | reset u same _ _ eq => exact .inl (eq ▸ same.out)
  | write u same _ operand => exact .inl (operand.out.trans same.out)
  | issue u i same _ _ eq => exact .inl (eq ▸ same.out)
  | transfer u i same turn busy _ _ eq =>
    have appended := afterTransfer_out i u
    rw [← eq, same.out] at appended
    exact .inr ⟨same.busy.symm.trans busy, turn, _, appended⟩

/-- Settles O44: what writes an operand register, DMEM or CMD is an idle block's, Reset excepted. -/
theorem operandsAreFrozenWhileBusy : Obligations.OperandsAreFrozenWhileBusy := by
  intro s t hb h
  have not_idle {u : State} (same : Quiet s u) : u.status.busy ≠ false := by simp [same.busy, hb]
  cases step_effect h with
  | quiet same =>
    exact .inr ⟨same.cmd, same.freq, same.dur, same.dlen, same.hdr, same.params, dmemByte_congr same.dmem⟩
  | reset u same turn act _ => exact .inl ⟨turn, act⟩
  | write u same idle _ => exact absurd idle (not_idle same)
  | issue u i same idle _ _ => exact absurd idle (not_idle same)
  | transfer u i same _ _ _ _ eq =>
    obtain ⟨k, n, b, ht⟩ := afterTransfer_frame i u
    rw [eq, ht]
    exact .inr ⟨same.cmd, same.freq, same.dur, same.dlen, same.hdr, same.params, dmemByte_congr same.dmem⟩

/-! ### The invariant -/

/-- DMEM is in canonical form and lists only addresses that exist: the invariant's first two parts. -/
def DmemOk (s : State) : Prop := Memory.wf s.dmem ∧ ∀ c ∈ s.dmem, c.1 < s.params.dmemSize.val

theorem Inv.dmemOk {s : State} (h : Inv s) : DmemOk s := by
  obtain ⟨hwf, hin, _⟩ := h
  exact ⟨hwf, hin⟩

theorem DmemOk.congr {s t : State} (h : DmemOk s) (hm : t.dmem = s.dmem) (hp : t.params = s.params) : DmemOk t := by
  rwa [DmemOk, hm, hp]

theorem DmemOk.store {s : State} (h : DmemOk s) {a : Nat} (v : Byte) (ha : a < s.params.dmemSize.val) :
    DmemOk (storeByte a v s) := by
  obtain ⟨hwf, hin⟩ := h
  refine ⟨store_wf a v hwf, fun c hc => ?_⟩
  rcases mem_store hc with rfl | hc
  · exact ha
  · exact hin c hc

theorem Underway.inv {i : Instr} {s : State} (h : Underway i s) (hm : DmemOk s) : Inv s := by
  obtain ⟨hwf, hin⟩ := hm
  rcases h with ⟨hb, hr⟩ | ⟨hb, hd, _, _, hsn⟩
  · exact ⟨hwf, hin, .inr ⟨i, hr.1⟩, fun hidle => absurd (hb.symm.trans hidle) nofun, fun _ => ⟨i, hr⟩⟩
  · exact ⟨hwf, hin, .inr ⟨i, hd⟩, fun _ => hsn, fun hbusy => absurd (hb.symm.trans hbusy) nofun⟩

theorem Inv.idle {s : State} (h : Inv s) (hb : s.status.busy = false) :
    (s.cmd = 0x0000#16 ∨ ∃ i, decode s.cmd = .instr i) ∧ s.sn = 0#32 := by
  obtain ⟨_, _, hcmd, hidle, _⟩ := h
  exact ⟨hcmd, hidle hb⟩

theorem Inv.running {s : State} {i : Instr} (h : Inv s) (hb : s.status.busy = true) (hd : decode s.cmd = .instr i) :
    runs i s := by
  obtain ⟨_, _, _, _, hbusy⟩ := h
  obtain ⟨j, hr⟩ := hbusy hb
  cases hr.1.symm.trans hd
  exact hr

theorem inv_resetEvent {s : State} (h : DmemOk s) : Inv (resetEvent s) := by
  obtain ⟨hwf, hin⟩ := h
  exact ⟨hwf, hin, .inl rfl, fun _ => rfl, nofun⟩

theorem OperandWrite.inv {s t : State} (h : OperandWrite s t) (hb : s.status.busy = false) (hs : Inv s) : Inv t := by
  have ht : t.status.busy = false := by rw [h.status, hb]
  have hm : DmemOk t := by
    rcases h.dmem with hm | ⟨a, v, ha, hm⟩
    · exact hs.dmemOk.congr hm h.params
    · exact (hs.dmemOk.store v ha).congr hm h.params
  obtain ⟨hcmd, hsn⟩ := hs.idle hb
  obtain ⟨hwf, hin⟩ := hm
  exact ⟨hwf, hin, by rwa [h.cmd], fun _ => h.sn.trans hsn, fun hbusy => absurd (ht.symm.trans hbusy) nofun⟩

/-- Settles O41: nothing in DMEM, CMD 0x0000, idle. -/
theorem resetMeetsTheInvariant : Obligations.ResetMeetsTheInvariant :=
  inv_resetEvent (s := State.reset) ⟨by decide, nofun⟩

/-- Settles O42: each of the five effects keeps the invariant; an issue and a transfer leave an operation under way or
completed. -/
theorem everyStepKeepsTheInvariant : Obligations.EveryStepKeepsTheInvariant := by
  intro s t hs h
  cases step_effect h with
  | quiet same => exact same.inv hs
  | reset u same _ _ eq => exact eq ▸ inv_resetEvent (same.inv hs).dmemOk
  | write u same idle operand => exact operand.inv idle (same.inv hs)
  | issue u i same _ ok eq => exact eq ▸ (accept_underway ok).inv (same.inv hs).dmemOk
  | transfer u i same _ busy dec _ eq =>
    have hu : Inv u := same.inv hs
    obtain ⟨k, n, b, ht⟩ := afterTransfer_frame i u
    exact eq ▸ (afterTransfer_underway busy (hu.running busy dec)).inv
      (hu.dmemOk.congr (by rw [ht]) (by rw [ht]))

/-! ### No step goes wrong -/

theorem hostTxn_next (x : Txn) (s : State) : ∃ t, hostTxn x s = .next t := by
  rcases hostTxn_cases (rfl : hostTxn x s = _) with ⟨_, h⟩ | ⟨_, _, h⟩ | ⟨_, h⟩ | h | ⟨_, _, h⟩ |
    ⟨_, _, _, _, _, _, h⟩ | ⟨_, ⟨_, h⟩ | ⟨_, h⟩ | ⟨_, h⟩ | ⟨_, _, h⟩ | ⟨_, _, _, h⟩⟩
  all_goals exact ⟨_, h⟩

theorem hostTurn_next (s : State) : ∃ t, hostTurn s = .next t := by
  rcases hostTurn_cases s with ⟨_, h⟩ | ⟨x, rest, _, h⟩ | ⟨_, _, h⟩ | ⟨_, _, h⟩
  · exact ⟨_, h⟩
  · rw [h]
    exact hostTxn_next x _
  · exact ⟨_, h⟩
  · exact ⟨_, h⟩

/-- A busy state of the invariant has a current segment, so its transfer answers. -/
theorem transfer_next {s : State} (hs : Inv s) : ∃ t, transfer s = .next t := by
  cases hb : s.status.busy with
  | false => exact ⟨s, transfer_idle hb⟩
  | true =>
    obtain ⟨_, _, _, _, hbusy⟩ := hs
    obtain ⟨i, hd, _, hseg, _⟩ := hbusy hb
    exact ⟨_, transfer_running hb hd hseg⟩

/-- Settles O43: the host's turns always answer, and the invariant excludes the one fault. -/
theorem noStepGoesWrong : Obligations.NoStepGoesWrong := by
  intro s hs
  rcases step_cases s with ⟨_, h⟩ | ⟨_, h⟩ | ⟨_, h⟩
  · rw [h]
    exact hostTurn_next _
  · exact ⟨_, h⟩
  · rw [h]
    exact transfer_next ((Quiet.of_env rfl _ _ _ _ : Quiet s _).inv hs)

end Sys2Proof.Machine
end

section
/-! PROOFS. What a busy block has still to emit: the whole stream at issue, one pair less after each transfer, and the same
after every other step but Reset (44_sequencer_and_stream.md R69, R73, R75). -/

namespace Sys2Proof.Machine

/-! ### What remains -/

theorem remaining_idle {s : State} (hb : s.status.busy = false) : remaining s = [] := by
  simp [remaining, hb]

theorem remaining_running {i : Instr} {s : State} (hb : s.status.busy = true) (hd : decode s.cmd = .instr i) :
    remaining s = (mark (samples s.params.pol0 (segAt i s s.segi.toNat))).drop s.sn.toNat ++
      markedSegs s.params.pol0 ((segs i s).drop (s.segi.toNat + 1)) := by
  simp [remaining, hb, hd]

theorem segs_drop {i : Instr} {s : State} {k : Nat} (hk : k < nseg i s) :
    (segs i s).drop k = segAt i s k :: (segs i s).drop (k + 1) := by
  obtain ⟨hlt, hseg⟩ := List.getElem?_eq_some_iff.mp (segs_getElem? i s hk)
  rw [List.drop_eq_getElem_cons hlt, hseg]

/-- Empty segments emit nothing, so `normalise` may pass them. -/
theorem markedSegs_drop_past_empty (p : Sign) {i : Instr} {s : State} {a b : Nat} (hab : a ≤ b) (hb : b ≤ nseg i s)
    (hempty : ∀ j, a ≤ j → j < b → segLen (segAt i s j).dur = 0) :
    markedSegs p ((segs i s).drop a) = markedSegs p ((segs i s).drop b) := by
  obtain ⟨n, rfl⟩ := Nat.exists_eq_add_of_le hab
  clear hab
  induction n with
  | zero => rfl
  | succ n ih =>
    rw [ih (by omega) fun j ha hj => hempty j ha (by omega), segs_drop (k := a + n) (by omega), markedSegs_cons,
      mark_samples_empty p _ (hempty (a + n) (by omega) (by omega)), List.nil_append]
    rfl

/-- From the start of a segment, or past the last, all the pairs of the segments from there on remain. -/
theorem remaining_normalise {i : Instr} {s : State} (hd : decode s.cmd = .instr i) (ho : operandsOk i s = true)
    (hle : s.segi.toNat ≤ nseg i s) (hsn : s.sn = 0#32) :
    remaining (normalise i s) = markedSegs s.params.pol0 ((segs i s).drop s.segi.toNat) := by
  obtain ⟨hfrom, hto, hempty, _⟩ := stopAt_spec hle
  have hsegi := normalise_segi_toNat ho hle
  have hsn' : (normalise i s).sn = 0#32 := hsn
  rw [markedSegs_drop_past_empty _ hfrom hto hempty]
  rcases Nat.lt_or_eq_of_le hto with hlt | heq
  · rw [remaining_running (s := normalise i s) (decide_eq_true hlt) hd, hsegi, hsn', segs_drop hlt, segAt_normalise, segs_normalise,
      markedSegs_cons]
    rfl
  · rw [remaining_idle (s := normalise i s) (decide_eq_false (Nat.not_lt_of_le (Nat.le_of_eq heq.symm))), heq, ← segs_length, List.drop_length, markedSegs_nil]

theorem remaining_accept {i : Instr} {s : State} (ho : operandsOk i s = true) :
    remaining (accept i s) = stream i s := by
  have first := remaining_normalise (s := moveTo 0#32 0#32 (latchCommand (encode i) s)) (decode_encode i)
    (by simpa using ho) (Nat.zero_le _) rfl
  simpa [accept, stream] using first

/-- Settles O35: an accepted command starts at the first of its segments. -/
theorem acceptedCommandOwesItsStream : Obligations.AcceptedCommandOwesItsStream := fun i s hb ho =>
  ⟨accept i s, exec_accepted hb ho, accept_out i s, remaining_accept ho⟩

/-! ### A transfer takes the first remaining pair -/

/-- The pair on offer is the first that remains. -/
theorem remaining_eq_offered_cons {i : Instr} {s : State} (hb : s.status.busy = true) (hr : runs i s) :
    remaining s = offered (segAt i s s.segi.toNat) s ::
      ((mark (samples s.params.pol0 (segAt i s s.segi.toNat))).drop (s.sn.toNat + 1) ++
        markedSegs s.params.pol0 ((segs i s).drop (s.segi.toNat + 1))) := by
  obtain ⟨hd, _, _, hsn⟩ := hr
  obtain ⟨hlt, hpair⟩ := List.getElem?_eq_some_iff.mp
    (mark_samples_getElem? s.params.pol0 (segAt i s s.segi.toNat) hsn)
  rw [remaining_running hb hd, List.drop_eq_getElem_cons hlt, hpair]
  rfl

theorem remaining_afterTransfer {i : Instr} {s : State} (hb : s.status.busy = true) (hr : runs i s) :
    remaining s = offered (segAt i s s.segi.toNat) s :: remaining (afterTransfer i s) := by
  rw [remaining_eq_offered_cons hb hr]
  congr 1
  by_cases h : s.sn.toNat + 1 < segLen (segAt i s s.segi.toNat).dur
  · obtain ⟨hd, _, _, hsn⟩ := hr
    have rest := remaining_running (s := moveTo s.segi (s.sn + 1#32) (emit (offered (segAt i s s.segi.toNat) s) s)) hb hd
    rw [afterTransfer_inside h, rest]
    simp [toNat_succ hsn (segAt_len_lt _ _ _)]
  · obtain ⟨hd, ho, hle⟩ := nextSegment_ready hr
    have passed : (mark (samples s.params.pol0 (segAt i s s.segi.toNat))).drop (s.sn.toNat + 1) = [] :=
      List.drop_eq_nil_of_le (by simpa using h)
    rw [afterTransfer_atEnd h, remaining_normalise hd ho hle rfl, nextSegment_segi hr, passed]
    simp [nextSegment]

theorem afterTransfer_conserves {i : Instr} {s : State} (hb : s.status.busy = true) (hr : runs i s) :
    (afterTransfer i s).out ++ remaining (afterTransfer i s) = s.out ++ remaining s := by
  rw [afterTransfer_out, remaining_afterTransfer hb hr, List.append_assoc, List.singleton_append]

theorem Quiet.remaining_eq {s t : State} (h : Quiet s t) : remaining t = remaining s := by
  simp only [remaining, h.busy, h.cmd, h.params, h.segAt_eq, h.segs_eq, h.segi, h.sn]

/-- Settles O34: a quiet step changes neither part, a transfer moves one pair over, Reset drops what remains; the other
effects are an idle block's. -/
theorem pendingStreamIsConserved : Obligations.PendingStreamIsConserved := by
  intro s t hs hb h
  have not_idle {u : State} (same : Quiet s u) : u.status.busy ≠ false := by simp [same.busy, hb]
  cases step_effect h with
  | quiet same => exact .inl (by rw [same.out, same.remaining_eq])
  | reset u same turn act eq =>
    exact .inr ⟨turn, act, eq ▸ same.out, eq ▸ remaining_idle rfl⟩
  | write u same idle _ => exact absurd idle (not_idle same)
  | issue u i same idle _ _ => exact absurd idle (not_idle same)
  | transfer u i same _ busy dec _ eq =>
    rw [eq, afterTransfer_conserves busy ((same.inv hs).running busy dec), same.out, same.remaining_eq]
    exact .inl rfl

end Sys2Proof.Machine
end

section
/-! PROOFS. The output port and the hidden phase of a busy block, and the transfer of the pair its port shows
(44_sequencer_and_stream.md R71, R72; 10_state.md R17, R19). -/

namespace Sys2Proof.Machine

/-! ### The port -/

theorem currentSeg_running {i : Instr} {s : State} (hd : decode s.cmd = .instr i) (hn : s.segi.toNat < nseg i s) :
    currentSeg? s = some (segAt i s s.segi.toNat) := by
  simp [currentSeg?, hd, hn]

theorem outData_running {i : Instr} {s : State} (hb : s.status.busy = true) (hr : runs i s) :
    outData s = sampleCode (offered (segAt i s s.segi.toNat) s).sample := by
  obtain ⟨hd, _, hseg, _⟩ := hr
  simp [outData, hb, currentSeg_running hd hseg]

theorem outSos_busy {s : State} (hb : s.status.busy = true) : outSos s = decide (s.sn = 0#32) := by
  simp [outSos, hb, BitVec.toNat_eq]

theorem sampleCode_eq (v : Sign) : sampleCode v = if v = .pos then 0x1999#16 else 0xE667#16 := by
  cases v <;> rfl

/-- Settles O40: idle the signals are 0, busy they are those of the pair on offer; `out_ready` is none of them. -/
theorem outputPort : Obligations.OutputPort := by
  refine fun s hs => ⟨fun hb => ?_, fun i hb hd => ⟨hb, ?_, outSos_busy hb⟩, fun t ht => ?_⟩
  · exact ⟨hb, by simp [outData, hb], by simp [outSos, hb]⟩
  · rw [outData_running hb (hs.running hb hd), sampleCode_eq]
    rfl
  · cases ht
    exact ⟨rfl, rfl, rfl⟩

theorem Quiet.outData_eq {s t : State} (h : Quiet s t) : outData t = outData s := by
  simp only [outData, currentSeg?, offered, h.busy, h.cmd, h.segi, h.sn, h.params, h.nseg_eq, h.segAt_eq]

/-- A transfer moves the position forward. -/
theorem afterTransfer_position {i : Instr} {s : State} (hr : runs i s) :
    (s.segi.toNat < (afterTransfer i s).segi.toNat ∧ (afterTransfer i s).sn = 0#32) ∨
    ((afterTransfer i s).segi = s.segi ∧ (afterTransfer i s).sn.toNat = s.sn.toNat + 1) := by
  by_cases h : s.sn.toNat + 1 < segLen (segAt i s s.segi.toNat).dur
  · obtain ⟨_, _, _, hsn⟩ := hr
    rw [afterTransfer_inside h]
    exact .inr ⟨rfl, toNat_succ hsn (segAt_len_lt _ _ _)⟩
  · obtain ⟨_, ho, hle⟩ := nextSegment_ready hr
    obtain ⟨hfrom, _, _, _⟩ := stopAt_spec hle
    rw [nextSegment_segi hr] at hfrom
    rw [afterTransfer_atEnd h, normalise_segi_toNat ho hle]
    exact .inl ⟨hfrom, rfl⟩

/-- A ready moment of a busy state of the invariant is a transfer; `u` is the state once the turn is taken. -/
theorem step_transfers_running {s : State} (hs : Inv s) (hb : s.status.busy = true) (hn : nextTurn s = .sink true) :
    ∃ u i, Quiet s u ∧ u.status.busy = true ∧ runs i u ∧ step s = .next (afterTransfer i u) := by
  have same : Quiet s { s with schedule := s.schedule.tail, outReady := true } := .of_env rfl _ _ _ _
  obtain ⟨_, _, _, _, hbusy⟩ := hs
  obtain ⟨i, hr⟩ := hbusy hb
  have hru := (same.runs_iff i).mpr hr
  have ⟨hd, _, hseg, _⟩ := hru
  exact ⟨_, i, same, hb, hru, (step_sink_ready hn).trans (transfer_running hb hd hseg)⟩

/-- Settles O36: the ready moment appends the pair on offer, which is what the port shows, and moves the position on. -/
theorem busyBlockNeverStalls : Obligations.BusyBlockNeverStalls := by
  intro s hs hb hn
  obtain ⟨u, i, same, hbu, hr, hstep⟩ := step_transfers_running hs hb hn
  refine ⟨afterTransfer i u, offered (segAt i u u.segi.toNat) u, hstep, ?_, ?_, ?_, hb, ?_⟩
  · rw [afterTransfer_out, same.out]
  · rw [← same.outData_eq, outData_running hbu hr]
  · simp [outSos, offered, hb, same.sn]
  · simpa only [same.segi, same.sn] using afterTransfer_position hr

/-! ### The hidden phase -/

theorem phase_running {i : Instr} {s : State} (hd : decode s.cmd = .instr i) (hn : s.segi.toNat < nseg i s) :
    phase s = s.sn.toNat * (segAt i s s.segi.toNat).freq % 64000 := by
  rw [phase, currentSeg_running hd hn]
  rfl

theorem phase_segmentStart {s : State} (h : s.sn = 0#32) : phase s = 0 := by
  rw [phase, h]
  cases currentSeg? s <;> simp

/-- Inside a segment the phase grows by the frequency. -/
theorem phase_afterTransfer {i : Instr} {s : State} (hr : runs i s) (hsegi : (afterTransfer i s).segi = s.segi)
    (hsn : (afterTransfer i s).sn.toNat = s.sn.toNat + 1) :
    phase (afterTransfer i s) = (phase s + (segAt i s s.segi.toNat).freq) % 64000 := by
  obtain ⟨hd, _, hseg, _⟩ := hr
  have there := phase_running (i := i) (s := afterTransfer i s) (by rwa [afterTransfer_cmd])
    (by rwa [hsegi, nseg_afterTransfer])
  rw [there, phase_running hd hseg, hsegi, hsn, segAt_afterTransfer, Nat.mod_add_mod, Nat.succ_mul]

theorem Quiet.phase_eq {s t : State} (h : Quiet s t) : phase t = phase s := by
  simp only [phase, currentSeg?, h.cmd, h.segi, h.sn, h.nseg_eq, h.segAt_eq]

/-- Settles O39: a transfer inside a segment adds one to SN; one at its end sets SN to 0. -/
theorem phaseAccumulator : Obligations.PhaseAccumulator := by
  intro i s t hs hb hd hn ht
  obtain ⟨u, j, same, _, hr, hstep⟩ := step_transfers_running hs hb hn
  cases hstep.symm.trans ht
  obtain ⟨_, _, hseg, _⟩ := hs.running hb hd
  obtain rfl : j = i := Decoded.instr.inj ((same.cmd ▸ hr.1).symm.trans hd)
  refine ⟨phase_running hd hseg, fun hstay => ?_, fun hmove => ?_⟩
  · rcases afterTransfer_position hr with ⟨hlt, _⟩ | ⟨hsegi, hsn⟩
    · rw [hstay, same.segi] at hlt
      exact absurd hlt (Nat.lt_irrefl _)
    · rw [phase_afterTransfer hr hsegi hsn, same.phase_eq, same.segi, same.segAt_eq]
  · rcases afterTransfer_position hr with ⟨_, h0⟩ | ⟨hsegi, _⟩
    · exact phase_segmentStart h0
    · exact absurd (hsegi.trans same.segi) hmove

end Sys2Proof.Machine
end

section
/-! PROOFS. Runs with no turn scheduled and a ready sink: one operation to its end, and commands one after another
(44_sequencer_and_stream.md R75, R76). -/

namespace Sys2Proof.Machine

/-! ### One operation -/

/-- The state in which operation `i` has emitted all that remained: idle past its last segment. -/
def completed (i : Instr) (s : State) : State :=
  { s with
    segi := BitVec.ofNat 32 (nseg i s), sn := 0#32, out := s.out ++ remaining s
    status := { s.status with busy := false } }

/-- An operation that has just completed is in its completed state. -/
theorem completed_of_idle {i : Instr} {s : State} (hb : s.status.busy = false) (hseg : s.segi.toNat = nseg i s)
    (hsn : s.sn = 0#32) : completed i s = s := by
  rw [completed, remaining_idle hb, ← hseg, BitVec.ofNat_toNat, BitVec.setWidth_eq, ← hsn, ← hb, List.append_nil]

/-- A transfer does not change what the operation will have made of the state at its end. -/
theorem completed_afterTransfer {i : Instr} {s : State} (hb : s.status.busy = true) (hr : runs i s) :
    completed i (afterTransfer i s) = completed i s := by
  obtain ⟨k, n, b, hframe⟩ := afterTransfer_frame i s
  rw [completed, afterTransfer_conserves hb hr, nseg_afterTransfer, hframe]
  rfl

/-- An operation under way completes in as many steps as pairs remain. -/
theorem runFor_remaining {i : Instr} {s : State} (hu : Underway i s) (hs : s.schedule = []) (hr : s.outReady = true) :
    runFor (remaining s).length s = .next (completed i s) := by
  rcases hu with ⟨hb, hruns⟩ | ⟨hb, _, _, hseg, hsn⟩
  · have ⟨hd, _, hseg, _⟩ := hruns
    have hstep : step s = .next (afterTransfer i s) := (step_transfers hs hr hb).trans (transfer_running hb hd hseg)
    have hlen : (remaining s).length = (remaining (afterTransfer i s)).length + 1 := by
      rw [remaining_afterTransfer hb hruns, List.length_cons]
    obtain ⟨_, _, _, hframe⟩ := afterTransfer_frame i s
    rw [hlen, runFor_succ_next hstep, ← completed_afterTransfer hb hruns]
    exact runFor_remaining (afterTransfer_underway hb hruns) (by rw [hframe, hs]) (by rw [hframe, hr])
  · rw [remaining_idle hb, completed_of_idle hb hseg hsn]
    rfl
termination_by (remaining s).length

/-- What an accepted command has made of the state when it has run: CMD, the position, and its stream in OUT. -/
def commandRun (i : Instr) (s : State) : State :=
  { s with
    cmd := encode i, segi := BitVec.ofNat 32 (nseg i s), sn := 0#32, out := s.out ++ stream i s
    status := { s.status with busy := false } }

theorem runFor_accept {i : Instr} {s : State} (ho : operandsOk i s = true) (hs : s.schedule = [])
    (hr : s.outReady = true) : runFor (stepsOf i s) (accept i s) = .next (commandRun i s) := by
  have run := runFor_remaining (accept_underway ho) (s := accept i s) hs hr
  rw [remaining_accept ho, stream_length] at run
  rw [run, completed, remaining_accept ho]
  rfl

/-- Settles O33: the accepted operation owes its stream, and pays one pair a step. -/
theorem operationRunsToCompletion : Obligations.OperationRunsToCompletion := fun i s hb ho hs hr =>
  ⟨accept i s, exec_accepted hb ho, accept_out i s, runFor_accept ho hs hr⟩

/-! ### Commands one after another -/

/-- The host's actions of a list of commands, each followed by WAIT. -/
def commandsThenWait (ops : List Instr) : List HostAct :=
  ops.flatMap (fun i => Line.expand (.command i) ++ Line.expand .wait)

theorem commandsThenWait_cons (i : Instr) (ops : List Instr) :
    commandsThenWait (i :: ops) = commandAct i :: .wait :: commandsThenWait ops := rfl

/-- The word a command's action writes decodes to the command. -/
theorem decode_commandWord (i : Instr) : decode (((encode i).setWidth 32 : Word).setWidth 16) = .instr i := by
  rw [BitVec.setWidth_setWidth_of_le _ (by decide), BitVec.setWidth_eq, decode_encode]

/-- A poll of an idle block takes the WAIT off the list. -/
theorem hostTurn_wait_idle {s : State} {rest : List HostAct} (hh : s.host = .wait :: rest)
    (hb : s.status.busy = false) : hostTurn s = .next (returnRead (.reg s.status.word) { s with host := rest }) := by
  rw [hostTurn, hh]
  simp [pollStatus_eq, hb]

/-- What a command and its WAIT leave of an idle state: `commandRun`, with the value of the poll in the record of reads and
`rest` still to be done by the host. -/
def afterCommand (i : Instr) (rest : List HostAct) (s : State) : State :=
  { s with
    cmd := encode i, segi := BitVec.ofNat 32 (nseg i s), sn := 0#32, out := s.out ++ stream i s, host := rest
    reads := s.reads ++ [.reg s.status.word] }

theorem runFor_command {i : Instr} {rest : List HostAct} {s : State} (ho : operandsOk i s = true)
    (hb : s.status.busy = false) (hs : s.schedule = []) (hr : s.outReady = true)
    (hh : s.host = commandAct i :: .wait :: rest) :
    runFor (1 + stepsOf i s + 1) s = .next (afterCommand i rest s) := by
  have issued : runFor 1 s = .next (accept i { s with host := .wait :: rest }) := by
    have hstep : step s = .next (accept i { s with host := .wait :: rest }) := by
      rw [step_host_idle hs hb, hostTurn_command hh (decode_commandWord i)]
      exact exec_accepted hb ho
    exact runFor_succ_next hstep 0
  have ran := (runFor_add issued (stepsOf i s)).trans
    (runFor_accept (s := { s with host := .wait :: rest }) ho hs hr)
  have polled := (step_host_idle (s := commandRun i { s with host := .wait :: rest }) hs rfl).trans
    (hostTurn_wait_idle rfl rfl)
  have idle : ({ s.status with busy := false } : Status) = s.status := by rw [← hb]
  rw [runFor_add ran 1, runFor_succ_next polled 0, runFor_zero, commandRun, idle]
  rfl

theorem operandsOk_afterCommand (i j : Instr) (rest : List HostAct) (s : State) :
    operandsOk j (afterCommand i rest s) = operandsOk j s := operandsOk_congr rfl rfl rfl j

theorem stream_afterCommand (i j : Instr) (rest : List HostAct) (s : State) :
    stream j (afterCommand i rest s) = stream j s := by
  have same : segs j (afterCommand i rest s) = segs j s := segs_congr rfl rfl rfl rfl rfl j
  rw [stream, same]
  rfl

/-- Settles O47: by induction on the commands; a command leaves the operands of those after it. -/
theorem commandsCompose : Obligations.CommandsCompose := by
  intro ops
  induction ops with
  | nil =>
    intro s _ hb _ _ hh
    exact ⟨0, s, rfl, hb, hh, (List.append_nil s.out).symm, rfl, rfl, rfl, rfl, rfl, fun _ => rfl⟩
  | cons i ops ih =>
    intro s ho hb hs hr hh
    obtain ⟨hoi, hrest⟩ := List.forall_mem_cons.mp ho
    have first := runFor_command hoi hb hs hr (hh.trans (commandsThenWait_cons i ops))
    obtain ⟨n, t, hrun, hidle, hhost, hout, hops⟩ := ih (afterCommand i (commandsThenWait ops) s)
      (fun j hj => (operandsOk_afterCommand i j _ s).trans (hrest j hj)) hb hs hr rfl
    refine ⟨1 + stepsOf i s + 1 + n, t, (runFor_add first n).trans hrun, hidle, hhost, ?_, hops⟩
    simp only [stream_afterCommand] at hout
    rw [hout, List.flatMap_cons, ← List.append_assoc]
    rfl

end Sys2Proof.Machine
end

section
/-! PROOFS. What the block does not read: OUT (10_state.md R20) and, in an operation, the flags (R10; 60_exceptions.md R86). -/

namespace Sys2Proof.Machine

/-- The loop of `normalise` looks at the operand state and SEGI alone. -/
theorem stopAt_congr {s t : State} (hf : t.freq = s.freq) (hd : t.dur = s.dur) (hl : t.dlen = s.dlen)
    (hh : t.hdr = s.hdr) (hm : t.dmem = s.dmem) (hs : t.segi = s.segi) (i : Instr) : stopAt i t = stopAt i s := by
  have loop (fuel k : Nat) : skipEmpty i t fuel k = skipEmpty i s fuel k := by
    induction fuel generalizing k with
    | zero => rfl
    | succ n ih => rw [skipEmpty, skipEmpty, segAt_congr hf hd hl hh hm, ih]
  rw [stopAt, stopAt, loop, nseg_congr hl, hs]

/-! ### OUT -/

/-- `s` with another history. -/
def withOut (o : List OutPair) (s : State) : State := { s with out := o }

/-- An outcome with another state in it. -/
def mapNext (f : State → State) : Host.Outcome State Fault Refusal → Host.Outcome State Fault Refusal
  | .next s => .next (f s)
  | .fault r => .fault r
  | .refused r => .refused r

theorem normalise_withOut (i : Instr) (o : List OutPair) (s : State) :
    normalise i (withOut o s) = withOut o (normalise i s) := by
  have same : stopAt i (withOut o s) = stopAt i s :=
    stopAt_congr (s := s) (t := withOut o s) rfl rfl rfl rfl rfl rfl i
  have count : nseg i (withOut o s) = nseg i s := nseg_congr rfl i
  rw [normalise_eq, normalise_eq, same, count]
  rfl

theorem accept_withOut (i : Instr) (o : List OutPair) (s : State) : accept i (withOut o s) = withOut o (accept i s) :=
  normalise_withOut i o (moveTo 0#32 0#32 (latchCommand (encode i) s))

theorem regRead_withOut (r : Nat) (o : List OutPair) (s : State) : regRead r (withOut o s) = withOut o (regRead r s) := by
  unfold regRead
  cases regOfNumber? r <;> rfl

theorem lockedWrite_withOut (write : State → State) (o : List OutPair)
    (hw : ∀ s, write (withOut o s) = withOut o (write s)) (s : State) : lockedWrite write (withOut o s) = withOut o (lockedWrite write s) := by
  cases hb : s.status.busy with
  | true => rw [lockedWrite_busy hb, lockedWrite_busy (s := withOut o s) hb]; rfl
  | false => simpa [lockedWrite, hb, withOut] using hw s

theorem commandWrite_withOut (v : Word) (o : List OutPair) (s : State) :
    commandWrite v (withOut o s) = mapNext (withOut o) (commandWrite v s) := by
  cases hb : s.status.busy with
  | true => rw [commandWrite_busy hb, commandWrite_busy (s := withOut o s) hb]; rfl
  | false =>
    cases hd : decode (v.setWidth 16) with
    | illegal why => rw [commandWrite_illegal hb hd, commandWrite_illegal (s := withOut o s) hb hd]; rfl
    | instr i =>
      have same : operandsOk i (withOut o s) = operandsOk i s := operandsOk_congr rfl rfl rfl i
      rw [commandWrite_legal hb hd, commandWrite_legal (s := withOut o s) hb hd, same, accept_withOut]
      cases operandsOk i s <;> rfl

theorem hostTxn_withOut (x : Txn) (o : List OutPair) (s : State) :
    hostTxn x (withOut o s) = mapNext (withOut o) (hostTxn x s) := by
  cases x with
  | regRead r => exact congrArg Host.Outcome.next (regRead_withOut r o s)
  | regWrite r v =>
    simp only [hostTxn, regWrite]
    cases regOfNumber? r with
    | none => rfl
    | some g =>
      cases g with
      | cmd => exact commandWrite_withOut v o s
      | freq => exact congrArg Host.Outcome.next (lockedWrite_withOut (setFreq v) o (fun _ => rfl) s)
      | dur => exact congrArg Host.Outcome.next (lockedWrite_withOut (setDur v) o (fun _ => rfl) s)
      | dlen => exact congrArg Host.Outcome.next (lockedWrite_withOut (setDlen v) o (fun _ => rfl) s)
      | hdr i => exact congrArg Host.Outcome.next (lockedWrite_withOut (setHdr i v) o (fun _ => rfl) s)
      | _ => rfl
  | memRead a =>
    have inside : dmemHas (withOut o s) a = dmemHas s a := rfl
    rw [hostTxn, hostTxn, memRead, memRead, inside]
    cases dmemHas s a <;> rfl
  | memWrite a v =>
    have inside : dmemHas (withOut o s) a = dmemHas s a := rfl
    rw [hostTxn, hostTxn, memWrite, memWrite, inside, lockedWrite_withOut (storeByte a v) o (fun _ => rfl)]
    cases dmemHas s a <;> rfl

theorem pollStatus_withOut (rest : List HostAct) (o : List OutPair) (s : State) :
    pollStatus rest (withOut o s) = withOut o (pollStatus rest s) := by
  have same : (withOut o s).status = s.status := rfl
  rw [pollStatus_eq, pollStatus_eq, same]
  cases s.status.busy <;> rfl

theorem hostTurn_withOut (o : List OutPair) (s : State) : hostTurn (withOut o s) = mapNext (withOut o) (hostTurn s) := by
  have same : (withOut o s).host = s.host := rfl
  rw [hostTurn, hostTurn, same]
  rcases s.host with _ | ⟨_ | _ | _, rest⟩
  · rfl
  · exact hostTxn_withOut _ o { s with host := rest }
  · rfl
  · exact congrArg Host.Outcome.next (pollStatus_withOut rest o s)

theorem afterTransfer_withOut (i : Instr) (o : List OutPair) (s : State) :
    afterTransfer i (withOut o s) = withOut (o ++ [offered (segAt i s s.segi.toNat) s]) (afterTransfer i s) := by
  have same : segAt i (withOut o s) s.segi.toNat = segAt i s s.segi.toNat := rfl
  by_cases h : s.sn.toNat + 1 < segLen (segAt i s s.segi.toNat).dur
  · rw [afterTransfer_inside h, afterTransfer_inside (s := withOut o s) h]
    rfl
  · rw [afterTransfer_atEnd h, afterTransfer_atEnd (s := withOut o s) h, ← normalise_withOut]
    rfl

theorem transfer_withOut {s t : State} (h : transfer s = .next t) (o : List OutPair) :
    ∃ d, t.out = s.out ++ d ∧ transfer (withOut o s) = .next (withOut (o ++ d) t) := by
  rcases transfer_cases h with ⟨hb, ht⟩ | ⟨_, _, ht⟩ | ⟨i, hb, hd, hseg, ht⟩
  · cases ht
    refine ⟨[], (List.append_nil s.out).symm, ?_⟩
    rw [List.append_nil]
    exact transfer_idle hb
  · cases ht
  · cases ht
    exact ⟨_, afterTransfer_out i s,
      (transfer_running (s := withOut o s) hb hd hseg).trans (congrArg Host.Outcome.next (afterTransfer_withOut i o s))⟩

/-- Settles O38: the host's turn commutes with a change of history and appends nothing; a transfer appends the same pair. -/
theorem outIsNeverRead : Obligations.OutIsNeverRead := by
  intro s t o h
  have quiet (hn : nextTurn s ≠ .sink true) : t.out = s.out ++ [] := by
    rcases outputOnlyByTransfers s t h with hout | ⟨_, hsink, _⟩
    · rw [hout, List.append_nil]
    · exact absurd hsink hn
  rcases step_cases s with ⟨hn, hs⟩ | ⟨hn, hs⟩ | ⟨hn, hs⟩
  · refine ⟨[], quiet (by simp [hn]), ?_⟩
    rw [step_host (s := { s with out := o }) hn, List.append_nil]
    refine (hostTurn_withOut o { s with schedule := s.schedule.tail }).trans ?_
    rw [hs.symm.trans h]
    rfl
  · refine ⟨[], quiet (by simp [hn]), ?_⟩
    cases hs.symm.trans h
    rw [List.append_nil, step, show nextTurn { s with out := o } = .sink false from hn]
    rfl
  · obtain ⟨d, hout, ht⟩ := transfer_withOut (hs.symm.trans h) o
    exact ⟨d, hout, (step_sink_ready (s := { s with out := o }) hn).trans ht⟩

/-! ### The flags -/

/-- `s` with another STATUS. -/
def withStatus (st : Status) (s : State) : State := { s with status := st }

theorem normalise_withStatus (i : Instr) (st : Status) (s : State) :
    normalise i (withStatus st s) = withStatus (st.setBusy (normalise i s).status.busy) (normalise i s) := by
  have same : stopAt i (withStatus st s) = stopAt i s :=
    stopAt_congr (s := s) (t := withStatus st s) rfl rfl rfl rfl rfl rfl i
  have count : nseg i (withStatus st s) = nseg i s := nseg_congr rfl i
  rw [normalise_busy, normalise_eq, normalise_eq, same, count]
  rfl

/-- A command answers the same whatever the flags. -/
theorem exec_withStatus {i : Instr} {s t : State} {st : Status} (hst : st.busy = s.status.busy)
    (h : exec i s = .next t) :
    ∃ st', st'.busy = t.status.busy ∧ exec i (withStatus st s) = .next (withStatus st' t) := by
  have same : operandsOk i (withStatus st s) = operandsOk i s := operandsOk_congr rfl rfl rfl i
  rw [exec_eq_issue] at h
  rcases issue_cases h with ⟨hb, ht⟩ | ⟨hb, ho, ht⟩ | ⟨hb, ho, ht⟩
  · cases ht
    refine ⟨st.raise .eBusy, by simp [hst], ?_⟩
    exact exec_busy (s := withStatus st s) (hst.trans hb) i
  · cases ht
    refine ⟨_, setBusy_busy st _, (exec_accepted (s := withStatus st s) (hst.trans hb) (same.trans ho)).trans ?_⟩
    exact congrArg Host.Outcome.next
      (normalise_withStatus i st (moveTo 0#32 0#32 (latchCommand (encode i) s)))
  · cases ht
    refine ⟨st.raise .eOpd, by simp [hst], ?_⟩
    exact exec_refused (s := withStatus st s) (hst.trans hb) (same.trans ho)

theorem afterTransfer_withStatus (i : Instr) {s : State} {st : Status} (hst : st.busy = s.status.busy) :
    ∃ st', st'.busy = (afterTransfer i s).status.busy ∧
      afterTransfer i (withStatus st s) = withStatus st' (afterTransfer i s) := by
  by_cases h : s.sn.toNat + 1 < segLen (segAt i s s.segi.toNat).dur
  · rw [afterTransfer_inside h, afterTransfer_inside (s := withStatus st s) h]
    exact ⟨st, hst, rfl⟩
  · rw [afterTransfer_atEnd h, afterTransfer_atEnd (s := withStatus st s) h]
    exact ⟨_, setBusy_busy st _, normalise_withStatus i st (nextSegment i s)⟩

/-- A transfer answers the same whatever the flags. -/
theorem transfer_withStatus {s t : State} {st : Status} (hst : st.busy = s.status.busy) (h : transfer s = .next t) :
    ∃ st', st'.busy = t.status.busy ∧ transfer (withStatus st s) = .next (withStatus st' t) := by
  rcases transfer_cases h with ⟨hb, ht⟩ | ⟨_, _, ht⟩ | ⟨i, hb, hd, hseg, ht⟩
  · cases ht
    exact ⟨st, hst, transfer_idle (s := withStatus st s) (hst.trans hb)⟩
  · cases ht
  · cases ht
    obtain ⟨st', hbusy, heq⟩ := afterTransfer_withStatus i hst
    exact ⟨st', hbusy, heq ▸ transfer_running (s := withStatus st s) (hst.trans hb) hd hseg⟩

/-- Settles O46: an issue and a transfer look at BUSY alone. -/
theorem flagsChangeNothing : Obligations.FlagsChangeNothing := fun _ _ _ hst =>
  ⟨fun _ h => exec_withStatus hst h, fun _ h => transfer_withStatus hst h⟩

end Sys2Proof.Machine
end

section
/-! PROOFS. The flags: when a set flag is cleared, what a transaction that sets one does, and the STATUS word
(10_state.md R10; 60_exceptions.md R77, R78). -/

namespace Sys2Proof.Machine

/-! ### Set flags stay set -/

theorem get_raise_of_get {st : Status} {f : Flag} (h : st.get f = true) (g : Flag) : (st.raise g).get f = true := by
  by_cases hg : g = f
  · rw [hg, get_raise_same]
  · rw [get_raise_other st hg, h]

/-- A transaction clears a flag only as a STATUS write that selects it. -/
theorem hostTxn_sticky {x : Txn} {s t : State} {f : Flag} (h : hostTxn x s = .next t) (hf : s.status.get f = true) :
    t.status.get f = true ∨ ∃ v, x = .regWrite 0x01 v ∧ v.getLsbD f.bit = true := by
  rcases hostTxn_cases h with ⟨g, h⟩ | ⟨g, v, h⟩ | ⟨v, h⟩ | h | ⟨v, hx, h⟩ | ⟨i, v, _, _, _, _, h⟩ | ⟨_, hw⟩
  · cases h
    exact .inl (get_raise_of_get hf g)
  · cases h
    exact .inl (get_raise_of_get hf g)
  · cases h
    exact .inl hf
  · cases h
    exact .inl hf
  · cases h
    cases hv : v.getLsbD f.bit with
    | true => exact .inr ⟨v, hx, hv⟩
    | false => exact .inl (by simp [get_writeOneToClear, hf, hv])
  · cases h
    exact .inl ((get_accept f i s).trans hf)
  · rcases hw with ⟨_, h⟩ | ⟨_, h⟩ | ⟨_, h⟩ | ⟨_, _, h⟩ | ⟨_, _, _, h⟩
    all_goals
      cases h
      exact .inl hf

/-- Settles O45: of the host's turn, Reset and a selecting STATUS write alone clear a flag; a moment of the sink clears
none. -/
theorem flagsAreSticky : Obligations.FlagsAreSticky := by
  intro s t f h hf
  rcases step_cases s with ⟨hn, hs⟩ | ⟨hn, hs⟩ | ⟨hn, hs⟩
  · rw [hs] at h
    rcases hostTurn_cases { s with schedule := s.schedule.tail } with ⟨_, ht⟩ | ⟨x, rest, hh, ht⟩ | ⟨rest, hh, ht⟩ |
      ⟨rest, _, ht⟩
    · cases ht.symm.trans h
      exact .inl hf
    · rcases hostTxn_sticky (ht.symm.trans h) hf with hset | ⟨v, rfl, hv⟩
      · exact .inl hset
      · exact .inr ⟨hn, .inr ⟨v, congrArg List.head? hh, hv⟩⟩
    · exact .inr ⟨hn, .inl (congrArg List.head? hh)⟩
    · cases ht.symm.trans h
      rw [pollStatus_eq]
      exact .inl (by split <;> exact hf)
  · cases hs.symm.trans h
    exact .inl hf
  · rcases transfer_cases (hs.symm.trans h) with ⟨_, ht⟩ | ⟨_, _, ht⟩ | ⟨i, _, _, _, ht⟩
    · cases ht
      exact .inl hf
    · cases ht
    · cases ht
      obtain ⟨k, n, b, hframe⟩ := afterTransfer_frame i { s with schedule := s.schedule.tail, outReady := true }
      refine .inl ((congrArg (fun u : State => u.status.get f) hframe).trans ?_)
      exact (get_setBusy s.status b f).trans hf

/-! ### One flag a transaction -/

theorem raised_of_get {st : Status} {f g : Flag} (hoff : st.get f = false) (hon : (st.raise g).get f = true) : g = f := by
  refine Decidable.byContradiction fun hg => ?_
  rw [get_raise_other st hg, hoff] at hon
  exact absurd hon nofun

/-- `t` is `s` with one flag raised, and a returned 0 if the transaction was a read. -/
def RaisesOne (s t : State) : Prop :=
  ∃ f r, t = { raise f s with reads := r } ∧
    (r = s.reads ∨ r = s.reads ++ [.reg 0#32] ∨ r = s.reads ++ [.mem 0x00#8])

theorem raisesOne_raise (f : Flag) (s : State) : RaisesOne s (raise f s) := ⟨f, s.reads, rfl, .inl rfl⟩

/-- `t` has no flag that `s` has not. -/
def RaisesNone (s t : State) : Prop := ∀ f, t.status.get f = true → s.status.get f = true

theorem raisesNone_of_status {s t : State} (h : t.status = s.status) : RaisesNone s t := fun f hf => by rwa [h] at hf

theorem lockedWrite_raises (write : State → State) (hw : ∀ s, (write s).status = s.status) (s : State) :
    RaisesOne s (lockedWrite write s) ∨ RaisesNone s (lockedWrite write s) := by
  rcases lockedWrite_cases write s with ⟨_, h⟩ | ⟨_, h⟩
  · exact .inl (h ▸ raisesOne_raise .eLock s)
  · exact .inr (raisesNone_of_status (h ▸ hw s))

theorem commandWrite_raises {v : Word} {s t : State} (h : commandWrite v s = .next t) :
    RaisesOne s t ∨ RaisesNone s t := by
  rcases commandWrite_cases v s with ⟨f, hw, _⟩ | ⟨i, _, _, _, hw⟩
  · cases hw.symm.trans h
    exact .inl (raisesOne_raise f s)
  · cases hw.symm.trans h
    exact .inr fun f hf => (get_accept f i s).symm.trans hf

theorem regWrite_raises {n : Nat} {v : Word} {s t : State} (h : regWrite n v s = .next t) :
    RaisesOne s t ∨ RaisesNone s t := by
  rw [regWrite] at h
  cases hn : regOfNumber? n with
  | none =>
    simp only [hn] at h
    cases h
    exact .inl (raisesOne_raise .eAddr s)
  | some g =>
    cases g <;> simp only [hn] at h
    case cmd => exact commandWrite_raises h
    case status =>
      cases h
      refine .inr fun f hf => ?_
      rw [clearFlags_status, get_writeOneToClear, Bool.and_eq_true] at hf
      exact hf.1
    case segi | sn =>
      cases h
      exact .inr (raisesNone_of_status rfl)
    case freq =>
      cases h
      exact lockedWrite_raises (setFreq v) (fun _ => rfl) s
    case dur =>
      cases h
      exact lockedWrite_raises (setDur v) (fun _ => rfl) s
    case dlen =>
      cases h
      exact lockedWrite_raises (setDlen v) (fun _ => rfl) s
    case hdr i =>
      cases h
      exact lockedWrite_raises (setHdr i v) (fun _ => rfl) s

/-- Every transaction raises one flag, with no other effect, or none. -/
theorem hostTxn_raises {x : Txn} {s t : State} (h : hostTxn x s = .next t) : RaisesOne s t ∨ RaisesNone s t := by
  cases x with
  | regRead n =>
    cases h
    rcases regRead_cases n s with ⟨_, hr⟩ | ⟨g, _, hr⟩
    · exact .inl ⟨.eAddr, _, hr, .inr (.inl rfl)⟩
    · exact .inr (raisesNone_of_status (hr ▸ rfl))
  | regWrite n v => exact regWrite_raises h
  | memRead a =>
    cases h
    rcases memRead_cases a s with ⟨_, hr⟩ | ⟨_, hr⟩
    · exact .inr (raisesNone_of_status (hr ▸ rfl))
    · exact .inl ⟨.eAddr, _, hr, .inr (.inr rfl)⟩
  | memWrite a v =>
    cases h
    rcases memWrite_cases a v s with ⟨_, hw⟩ | ⟨_, _, hw⟩ | ⟨_, _, hw⟩
    · exact .inl (hw ▸ raisesOne_raise .eAddr s)
    · exact .inl (hw ▸ raisesOne_raise .eLock s)
    · exact .inr (raisesNone_of_status (hw ▸ rfl))

/-- Settles O55: a transaction that turns a flag on is one that raises a flag, and it raises this one. -/
theorem oneFlagPerTransaction : Obligations.OneFlagPerTransaction := by
  intro x s t f h hoff hon
  rcases hostTxn_raises h with ⟨g, r, ht, hr⟩ | hnone
  · subst ht
    obtain rfl : g = f := raised_of_get hoff hon
    exact ⟨rfl, fun k hk => get_raise_other s.status (Ne.symm hk), hr⟩
  · exact absurd (hoff.symm.trans (hnone f hon)) nofun

/-! ### The STATUS word -/

theorem getLsbD_bitAt {k : Nat} (hk : k < 32) (b : Bool) (j : Nat) : (bitAt k b).getLsbD j = (decide (j = k) && b) := by
  rw [bitAt, BitVec.getLsbD_shiftLeft, BitVec.getLsbD_setWidth, BitVec.getLsbD_ofBool]
  by_cases h : j = k
  · subst h
    simp [hk]
  · have : j < k ∨ j - k ≠ 0 := by omega
    rcases this with hlt | hne <;> simp [*]

/-- The word bit by bit: each of its six terms has one place. -/
theorem getLsbD_word (st : Status) (j : Nat) :
    st.word.getLsbD j = ((decide (j = 0) && st.busy) || (decide (j = 8) && st.eIll) || (decide (j = 9) && st.eBusy) ||
      (decide (j = 10) && st.eOpd) || (decide (j = 11) && st.eLock) || (decide (j = 12) && st.eAddr)) := by
  have place (f : Flag) (b : Bool) : (bitAt f.bit b).getLsbD j = (decide (j = f.bit) && b) :=
    getLsbD_bitAt (by cases f <;> decide) b j
  rw [Status.word]
  simp only [BitVec.getLsbD_or, place, getLsbD_bitAt (k := 0) (by decide)]
  rfl

/-- Settles O54: the places of the five flags, and the word bit by bit. -/
theorem statusWordLayout : Obligations.StatusWordLayout := by
  refine ⟨by decide, fun st => ⟨?_, fun f => ?_, fun k h0 hk => ?_⟩⟩
  · rw [getLsbD_word]
    simp
  · rw [getLsbD_word]
    cases f <;> simp [Flag.bit, Flag.code, Status.get]
  · have hne : k ≠ 8 ∧ k ≠ 9 ∧ k ≠ 10 ∧ k ≠ 11 ∧ k ≠ 12 := by omega
    rw [getLsbD_word]
    simp [h0, hne]

end Sys2Proof.Machine
end

section
/-! PROOFS. Registers and DMEM through the host port (20_memory.md R24, R25, R28, R31, R33; 10_state.md R8, R22). -/

namespace Sys2Proof.Machine

/-! ### The register map -/

theorem regOfNumber_eq_none_iff (r : Nat) : regOfNumber? r = none ↔ r = 0x07 ∨ r = 0x0F ∨ 0x10 ≤ r := by
  have gaps : ∀ n < 0x10, regOfNumber? n = none → n = 0x07 ∨ n = 0x0F := by decide
  refine ⟨fun h => ?_, regOfNumber_unimplemented⟩
  rcases Nat.lt_or_ge r 0x10 with hlt | hge
  · exact (gaps r hlt h).imp_right .inl
  · exact .inr (.inr hge)

/-- Settles O48: each register is found by its number; below 0x10 two numbers are free. -/
theorem registerMap : Obligations.RegisterMap :=
  ⟨regOfNumber_regNumber, ⟨rfl, rfl, rfl, rfl, rfl, rfl, rfl, fun _ => rfl⟩, regOfNumber_eq_none_iff⟩

/-! ### Register reads and writes -/

theorem regRead_implemented {r : Nat} {g : Reg} (h : regOfNumber? r = some g) (s : State) :
    regRead r s = returnRead (.reg (regValue g s)) s := by
  rw [regRead, h]

/-- Settles O49: the value is the register's own, and widening keeps it. -/
theorem registerReads : Obligations.RegisterReads := fun s =>
  ⟨fun _ _ hg => regRead_implemented hg s, BitVec.toNat_setWidth_of_le (by decide), rfl,
    BitVec.toNat_setWidth_of_le (by decide), BitVec.toNat_setWidth_of_le (by decide), rfl, rfl, rfl,
    fun _ => BitVec.toNat_setWidth_of_le (by decide)⟩

theorem lockedWrite_idle {s : State} (hb : s.status.busy = false) (write : State → State) :
    lockedWrite write s = write s := by
  simp [lockedWrite, hb]

theorem regWrite_freq_idle {s : State} (hb : s.status.busy = false) (v : Word) :
    regWrite 0x02 v s = .next (setFreq v s) := congrArg Host.Outcome.next (lockedWrite_idle hb (setFreq v))

theorem regWrite_dur_idle {s : State} (hb : s.status.busy = false) (v : Word) :
    regWrite 0x03 v s = .next (setDur v s) := congrArg Host.Outcome.next (lockedWrite_idle hb (setDur v))

theorem regWrite_dlen_idle {s : State} (hb : s.status.busy = false) (v : Word) :
    regWrite 0x04 v s = .next (setDlen v s) := congrArg Host.Outcome.next (lockedWrite_idle hb (setDlen v))

theorem regWrite_hdr_idle {s : State} (hb : s.status.busy = false) (i : Fin 7) (v : Word) :
    regWrite (0x08 + i.val) v s = .next (setHdr i v s) := by
  rw [regWrite_hdr, lockedWrite_idle hb]

/-- The low bits of a register value, zero-extended again. -/
theorem setWidth_low (v : Word) {w : Nat} (hw : w ≤ 32) :
    ((v.setWidth w).setWidth 32 : Word) = BitVec.ofNat 32 (v.toNat % 2 ^ w) := by
  apply BitVec.eq_of_toNat_eq
  rw [BitVec.toNat_setWidth_of_le hw, BitVec.toNat_setWidth, BitVec.toNat_ofNat]
  exact (Nat.mod_eq_of_lt (Nat.lt_of_le_of_lt (Nat.mod_le _ _) v.isLt)).symm

theorem hdr_setHdr_same (i : Fin 7) (v : Word) (s : State) : (setHdr i v s).hdr[i] = v.setWidth 8 :=
  Vector.getElem_set_self i.isLt

theorem hdr_setHdr_other {i j : Fin 7} (h : j ≠ i) (v : Word) (s : State) : (setHdr i v s).hdr[j] = s.hdr[j] :=
  Vector.getElem_set_ne i.isLt j.isLt (fun hij => h (Fin.ext hij.symm))

/-- Settles O50: an idle write passes the lock, and each register takes the low bits it implements. -/
theorem operandRegisterWrites : Obligations.OperandRegisterWrites := by
  intro v s hb
  refine ⟨?_, ?_, regWrite_dlen_idle hb v, fun i => ⟨setHdr i v s, regWrite_hdr_idle hb i v, rfl, ?_,
    fun j hj => hdr_setHdr_other hj v s, ?_⟩, fun t ht => ?_, fun t ht => ?_, fun t ht => ?_⟩
  · rw [ofNat_mod_eq_setWidth]
    exact regWrite_freq_idle hb v
  · rw [ofNat_mod_eq_setWidth]
    exact regWrite_dur_idle hb v
  · rw [hdr_setHdr_same]
    exact BitVec.eq_of_toNat_eq (by simp)
  · exact (congrArg (BitVec.setWidth 32) (hdr_setHdr_same i v s)).trans (setWidth_low v (w := 8) (by decide))
  · cases (regWrite_freq_idle hb v).symm.trans ht
    exact setWidth_low v (w := 16) (by decide)
  · cases (regWrite_dur_idle hb v).symm.trans ht
    exact setWidth_low v (w := 16) (by decide)
  · cases (regWrite_dlen_idle hb v).symm.trans ht
    rfl

/-! ### DMEM -/

theorem memRead_inside {a : Nat} {s : State} (ha : a < s.params.dmemSize.val) :
    memRead a s = returnRead (.mem (dmemByte s a)) s := by
  rw [memRead, dmemHas, if_pos (decide_eq_true ha)]

/-- Settles O56: inside DMEM an idle write is the store and a read is the byte. -/
theorem memoryWriteAndRead : Obligations.MemoryWriteAndRead := by
  intro a v s ha
  refine ⟨fun hb => ?_, memRead_inside ha⟩
  rw [memWrite_inside ha, lockedWrite_idle hb]
  exact ⟨dmemByte_storeByte_same a v s, fun b hne => dmemByte_storeByte_other v s hne, rfl, store_wf a v⟩

/-- A write to another address, refused or not, leaves the byte. -/
theorem dmemByte_memWrite_other {a b : Nat} (v : Byte) (s : State) (h : a ≠ b) :
    dmemByte (memWrite b v s) a = dmemByte s a := by
  rcases memWrite_cases b v s with ⟨_, hw⟩ | ⟨_, _, hw⟩ | ⟨_, _, hw⟩
  · rw [hw]
    exact dmemByte_congr rfl a
  · rw [hw]
    exact dmemByte_congr rfl a
  · rw [hw, dmemByte_storeByte_other v s h]

/-- Settles O57: an address that the memory does not list reads as its power-on content. -/
theorem unwrittenByteIsStable : Obligations.UnwrittenByteIsStable := by
  intro a s h
  have unwritten : dmemByte s a = Config.powerOnByte a := by rw [dmemByte, h, Option.getD_none]
  exact ⟨unwritten, fun b v hne => (dmemByte_memWrite_other v s hne.symm).trans unwritten, unwritten⟩

end Sys2Proof.Machine
end

section
/-! PROOFS. Reset (70_reset_and_hazards.md R91 to R93) and the host script (30_encoding.md R42). -/

namespace Sys2Proof.Machine

/-! ### Reset -/

theorem hostTurn_reset {s : State} {rest : List HostAct} (hh : s.host = .reset :: rest) :
    hostTurn s = .next (resetEvent { s with host := rest }) := by
  rw [hostTurn, hh]

/-- After Reset TONE alone lacks its operand. -/
theorem operandsOk_resetEvent {i : Instr} (hi : i ≠ .tone) (s : State) : operandsOk i (resetEvent s) = true := by
  rw [← Bool.not_eq_false, operandsOk_eq_false]
  rintro (⟨htone, _⟩ | ⟨_, hlt⟩)
  · exact hi htone
  · exact Nat.not_lt_zero _ hlt

theorem exec_resetEvent {i : Instr} (hi : i ≠ .tone) (s : State) :
    ∃ t, exec i (resetEvent s) = .next t ∧ t.cmd = encode i ∧ t.status.busy = true :=
  ⟨_, exec_nonempty rfl (operandsOk_resetEvent hi s) (.inl hi), rfl, rfl⟩

theorem exec_tone_resetEvent (s : State) : exec .tone (resetEvent s) = .next (raise .eOpd (resetEvent s)) :=
  exec_refused rfl ((operandsOk_eq_false .tone _).mpr (.inl ⟨rfl, rfl⟩))

theorem word_clear : Status.clear.word = 0#32 := by decide

/-- Settles O58: the event's registers, the idle port they give, and which commands the block then accepts. -/
theorem resetValues : Obligations.ResetValues := by
  refine ⟨fun s rest hh => hostTurn_reset hh, fun s => ?_, fun i s => ⟨?_, fun hi => exec_resetEvent hi s⟩, rfl,
    fun _ => rfl⟩
  · exact ⟨word_clear, rfl, rfl, rfl, phase_segmentStart rfl, remaining_idle rfl, rfl, dmemByte_congr rfl⟩
  · rintro rfl
    exact exec_tone_resetEvent s

/-! ### The script -/

theorem expand_ldData (xs : List Byte) :
    Line.expand (.ldData xs) = xs.zipIdx.map (fun p => HostAct.txn (.memWrite p.2 p.1)) ++
      [writeAct 0x04 (BitVec.ofNat 32 xs.length)] := rfl

theorem expand_ldData_byte {xs : List Byte} {j : Nat} (h : j < xs.length) :
    (Line.expand (.ldData xs))[j]? = some (.txn (.memWrite j xs[j])) := by
  rw [expand_ldData, List.getElem?_append_left (by simpa using h)]
  simp [h]

theorem expand_ldData_count (xs : List Byte) :
    (Line.expand (.ldData xs))[xs.length]? = some (.txn (.regWrite 0x04 (BitVec.ofNat 32 xs.length))) := by
  rw [expand_ldData, List.getElem?_append_right (by simp)]
  simp [writeAct]

/-- A poll of WAIT reads STATUS and stays on the list while the block is busy. -/
theorem hostTurn_wait {s : State} {rest : List HostAct} (hh : s.host = .wait :: rest) :
    hostTurn s = .next
      { s with
        reads := s.reads ++ [.reg s.status.word]
        host := if s.status.busy = true then .wait :: rest else rest } := by
  rw [hostTurn, hh]
  simp only [pollStatus_eq]
  cases s.status.busy with
  | true => rw [← hh]; rfl
  | false => rfl

/-- Settles O59: each line's actions, and a poll of WAIT. -/
theorem hostScript : Obligations.HostScript := by
  refine ⟨fun r a v x => ⟨rfl, rfl, rfl, rfl, rfl⟩, fun i => ?_, fun f d => rfl,
    fun b0 b1 b2 b3 b4 b5 b6 => rfl, fun xs => ⟨?_, fun j h => expand_ldData_byte h, expand_ldData_count xs⟩, rfl,
    fun x xs => ⟨rfl, rfl⟩, fun s rest hh => hostTurn_wait hh⟩
  · rw [BitVec.ofNat_toNat]
    rfl
  · simp [expand_ldData]

end Sys2Proof.Machine
end
